-- ==== Sys2Proof/Word.lean ====
section
/-! DEFINITION. The value types of the block: bytes, 32-bit words, byte strings (00_scope.md R11, R12). -/

namespace Sys2Proof

/-- A byte is 8 bits (R12). -/
abbrev Byte := BitVec 8

/-- A 32-bit register or `u32` value (R9, R57). -/
abbrev Word := BitVec 32

/-- A 16-bit register (R24, R25, R26, R29). -/
abbrev Half := BitVec 16

/-- A byte string, index 0 first (R12). -/
abbrev Bytes := List Byte

/-- `zeros(n)` of R12: `n` bytes of 0x00. -/
abbrev zeros (n : Nat) : Bytes := List.replicate n 0#8

end Sys2Proof
end

