-- ==== Sys2Proof/Config.lean ====
section
/-! DEFINITION. The fixed constants of the block (00_scope.md R9), the reset values that are not zero
(10_state.md R38), and the two free values of the model. -/

namespace Sys2Proof.Config

/-- `HDR_LEN`: bytes of segment header (R9). -/
def hdrLen : Nat := 16

/-- `DUP_THRESH`: duplicate ACKs that trigger fast retransmit (R9). -/
def dupThresh : Nat := 3

/-- The largest 32-bit value, the bound of sequence numbers (R10, R161). -/
def maxSeq : Nat := 2 ^ 32 - 1

/-- The largest payload the 16-bit `LEN` field can say (R9 `LEN_W`, R62). -/
def maxPayload : Nat := 65535

/-- The threshold that always fires (R27, R72). -/
def alwaysFires : Nat := 65536

/-- Reset value of `CFG_MSS` (R24, R38). -/
def resetMss : Half := 1000#16

/-- Reset value of `CFG_MAX_WIN` (R25, R38). -/
def resetMaxWin : Word := 1000#32

/-- Reset value of both generator states (R28, R38). -/
def resetSeed : Word := 1#32

/-- FREE VALUE (DESIGN CHOICE, log 1; safe). The byte of the input source at an offset for which the host
has supplied none in `State.src`. R42 takes the source as a fixed function from offsets to bytes, a
parameter of the run; nothing is known of this one. -/
opaque sourceByte : Nat → Byte

/-- FREE VALUE (DESIGN CHOICE, log 2; safe). The arbiter's choice where R124 item 2 allows several of the
inputs presented at one instant to be performed next; its argument counts the choices made so far. -/
opaque arbiterChoice : Nat → Nat

end Sys2Proof.Config
end

