-- ==== Sys2Proof/Syntax.lean ====
section
/-! DEFINITION. The twelve operations (30_encoding.md R56) and the names their operands, verdicts, outcomes and
responses use. -/

namespace Sys2Proof

/-- One operation of the block with its operands as the command record carries them (R56, R57). `dir`, `flags` and
`addr` are the raw bytes: which values are refused or ignored is part of each operation's rule. -/
inductive Instr
  /-- `CRC.GEN data` (0x01, R64). -/
  | crcGen (data : Bytes)
  /-- `SEG.ENC flags, seq, ack, payload` (0x02, R62). -/
  | segEnc (flags : Byte) (seq ack : Word) (payload : Bytes)
  /-- `SEG.DEC frame` (0x03, R63). -/
  | segDec (frame : Bytes)
  /-- `LE.DECIDE dir` (0x10, R73). -/
  | leDecide (dir : Byte)
  /-- `LE.SEND dir, frame` (0x11, R74). -/
  | leSend (dir : Byte) (frame : Bytes)
  /-- `S.OPEN` (0x20, R83). -/
  | sOpen
  /-- `S.RX frame` (0x21, R84). -/
  | sRx (frame : Bytes)
  /-- `S.TICK` (0x22, R91). -/
  | sTick
  /-- `R.RX frame` (0x30, R101). -/
  | rRx (frame : Bytes)
  /-- `R.CLOSE` (0x31, R107). -/
  | rClose
  /-- `REG.RD addr` (0x40, R115). -/
  | regRd (addr : Byte)
  /-- `REG.WR addr, data` (0x41, R116). -/
  | regWr (addr : Byte) (data : Word)
  deriving DecidableEq, Repr

/-- The two directions of the injector (R14, R57). -/
inductive Dir
  /-- Sender to receiver. -/
  | fwd
  /-- Receiver to sender. -/
  | rev
  deriving DecidableEq, Repr

/-- The injector's verdict on one frame (R57, R73). -/
inductive Verdict
  | pass
  | drop
  | corrupt
  deriving DecidableEq, Repr

/-- The outcome of an operation (60_exceptions.md R120). -/
inductive OutcomeCode
  | ok
  | corruptionDetected
  | refusedState
  | refusedConfig
  | refusedOperand
  | refusedLocked
  | illegalOp
  deriving DecidableEq, Repr

/-- The results of an operation (the Results column of R56). -/
inductive Results
  /-- No results: `R.CLOSE`, `REG.WR`, and every outcome other than `OK` (R55). -/
  | none
  /-- `CRC.GEN`. -/
  | crc (c : Word)
  /-- `SEG.ENC`. -/
  | frame (f : Bytes)
  /-- `SEG.DEC`: flags, seq, ack, payload. -/
  | segment (flags : Byte) (seq ack : Word) (payload : Bytes)
  /-- `LE.DECIDE`. -/
  | verdict (v : Verdict)
  /-- `LE.SEND`: the verdict, and the delivered frame where there is one. -/
  | sent (v : Verdict) (delivered : Option Bytes)
  /-- `S.OPEN`, `S.RX`, `S.TICK`, `R.RX`: the frames that left the block, in order. -/
  | frames (fs : List Bytes)
  /-- `REG.RD`. -/
  | data (d : Word)
  deriving DecidableEq, Repr

/-- The response to one operation (R55). -/
structure Response where
  outcome : OutcomeCode
  results : Results
  deriving DecidableEq, Repr

/-- Why the command decoder refuses a record (R58); every one of them is answered with `ILLEGAL_OP`. -/
inductive DecodeError
  /-- The record holds no byte, so no operation code. -/
  | emptyRecord
  /-- The operation code is none of R56. -/
  | unknownOp (op : Byte)
  /-- The record ends inside an operand. -/
  | tooShort
  /-- Bytes stand after the last operand. -/
  | tooLong
  deriving DecidableEq, Repr

end Sys2Proof
end

