-- ==== Sys2Proof/Machine/Operands.lean ====
section
/-! DEFINITION. Operand and result encodings (30_encoding.md R57): big-endian numbers (00_scope.md R12), `u8`, `u32`,
`bytes`, `frames`, `dir`, `verdict`, outcome codes and the response record (R55). -/

namespace Sys2Proof

/-- `BE_n(v)`: the `n` bytes of `v`, most significant first (R12). -/
def beBytes : Nat → Nat → Bytes
  | 0, _ => []
  | n + 1, v => BitVec.ofNat 8 (v >>> (8 * n)) :: beBytes n v

/-- `be(s)`: the natural number whose big-endian bytes are `s` (R12). -/
def beNat (s : Bytes) : Nat := s.foldl (fun a b => a * 256 + b.toNat) 0

/-- A `u32` value as its four bytes (R57). -/
def encU32 (w : Word) : Bytes := beBytes 4 w.toNat

/-- A `bytes` value: a `u32` length, then the bytes (R57). -/
def encBytes (s : Bytes) : Bytes := beBytes 4 s.length ++ s

/-- A `frames` value: a `u32` count, then that many `bytes` values (R57). -/
def encFrames (fs : List Bytes) : Bytes := beBytes 4 fs.length ++ fs.flatMap encBytes

/-- The first `n` bytes of `s` and what follows them; none where `s` is shorter. -/
def takeN (n : Nat) (s : Bytes) : Option (Bytes × Bytes) :=
  if n ≤ s.length then some (s.take n, s.drop n) else none

/-- Reads a `u8` operand (R57). -/
def takeU8 : Bytes → Option (Byte × Bytes)
  | [] => none
  | b :: t => some (b, t)

/-- Reads a `u32` operand (R57). -/
def takeU32 (s : Bytes) : Option (Word × Bytes) :=
  match takeN 4 s with
  | some (d, t) => some (BitVec.ofNat 32 (beNat d), t)
  | none => none

/-- Reads a `bytes` operand (R57). -/
def takeBytes (s : Bytes) : Option (Bytes × Bytes) :=
  match takeU32 s with
  | some (n, t) => takeN n.toNat t
  | none => none

/-- `dir` (R57): 0x00 is `FWD`, 0x01 is `REV`, any other value is refused. -/
def dirOf (b : Byte) : Option Dir :=
  if b = 0x00#8 then some .fwd else if b = 0x01#8 then some .rev else none

/-- The byte of a direction (R57). -/
def Dir.code : Dir → Byte
  | .fwd => 0x00#8
  | .rev => 0x01#8

/-- The byte of a verdict (R57). -/
def Verdict.code : Verdict → Byte
  | .pass => 0x00#8
  | .drop => 0x01#8
  | .corrupt => 0x02#8

/-- The outcome codes (R120). -/
def OutcomeCode.code : OutcomeCode → Byte
  | .ok => 0x00#8
  | .corruptionDetected => 0x01#8
  | .refusedState => 0x02#8
  | .refusedConfig => 0x03#8
  | .refusedOperand => 0x04#8
  | .refusedLocked => 0x05#8
  | .illegalOp => 0x06#8

/-- The results of an operation as the response record carries them, in the order of R56. -/
def Results.bytes : Results → Bytes
  | .none => []
  | .crc c => encU32 c
  | .frame f => encBytes f
  | .segment flags seq ack payload => flags :: (encU32 seq ++ encU32 ack ++ encBytes payload)
  | .verdict v => [v.code]
  | .sent v (.some f) => v.code :: 0x01#8 :: encBytes f
  | .sent v .none => v.code :: 0x00#8 :: encBytes []
  | .frames fs => encFrames fs
  | .data d => encU32 d

/-- The response record (R55): the outcome byte, then the results; the outcome byte alone where the outcome is not
`OK`. -/
def Response.bytes (r : Response) : Bytes :=
  match r.outcome with
  | .ok => OutcomeCode.ok.code :: r.results.bytes
  | o => [o.code]

end Sys2Proof
end

