-- ==== Sys2Proof/WellFormed.lean ====
section
/-! DEFINITION. Which terms of `Instr` a command record can carry: the length of a `bytes` operand is a `u32`
(30_encoding.md R57). -/

namespace Sys2Proof

/-- A `bytes` operand whose length its `u32` length field can say (R57). -/
abbrev bytesFit (s : Bytes) : Prop := s.length < 2 ^ 32

/-- The operation has a command record (R55, R57): each of its `bytes` operands fits. -/
def Instr.wellFormed : Instr → Bool
  | .crcGen data => decide (bytesFit data)
  | .segEnc _ _ _ payload => decide (bytesFit payload)
  | .segDec frame => decide (bytesFit frame)
  | .leDecide _ => true
  | .leSend _ frame => decide (bytesFit frame)
  | .sOpen => true
  | .sRx frame => decide (bytesFit frame)
  | .sTick => true
  | .rRx frame => decide (bytesFit frame)
  | .rClose => true
  | .regRd _ => true
  | .regWr _ _ => true

end Sys2Proof
end

