-- ==== Sys2Proof/Decode.lean ====
section
/-! DEFINITION. The command decoder (30_encoding.md R55 to R58), total on every byte string, and the encoder of
well-formed operations, written from the same rules. -/

namespace Sys2Proof

/-- The end of a record: nothing may follow the last operand (R55, R58). -/
def endRecord (i : Instr) : Bytes → Except DecodeError Instr
  | [] => .ok i
  | _ :: _ => .error .tooLong

/-- Operands of the form `bytes` (R56). -/
def decodeBytes (k : Bytes → Instr) (t : Bytes) : Except DecodeError Instr :=
  match takeBytes t with
  | some (s, t) => endRecord (k s) t
  | none => .error .tooShort

/-- Operands of the form `u8` (R56). -/
def decodeU8 (k : Byte → Instr) (t : Bytes) : Except DecodeError Instr :=
  match takeU8 t with
  | some (b, t) => endRecord (k b) t
  | none => .error .tooShort

/-- Operands of the form `u8, bytes` (R56). -/
def decodeU8Bytes (k : Byte → Bytes → Instr) (t : Bytes) : Except DecodeError Instr :=
  match takeU8 t with
  | some (b, t) => decodeBytes (k b) t
  | none => .error .tooShort

/-- Operands of the form `u8, u32` (R56). -/
def decodeU8U32 (k : Byte → Word → Instr) (t : Bytes) : Except DecodeError Instr :=
  match takeU8 t with
  | some (b, t) =>
    match takeU32 t with
    | some (w, t) => endRecord (k b w) t
    | none => .error .tooShort
  | none => .error .tooShort

/-- The operands of `SEG.ENC`: `u8, u32, u32, bytes` (R56). -/
def decodeSegEnc (t : Bytes) : Except DecodeError Instr :=
  match takeU8 t with
  | some (flags, t) =>
    match takeU32 t with
    | some (seq, t) =>
      match takeU32 t with
      | some (ack, t) => decodeBytes (Instr.segEnc flags seq ack) t
      | none => .error .tooShort
    | none => .error .tooShort
  | none => .error .tooShort

/-- The operands of the operation with code `op` (R56, R58). -/
def decodeOp (op : Byte) (t : Bytes) : Except DecodeError Instr :=
  if op = 0x01#8 then decodeBytes .crcGen t
  else if op = 0x02#8 then decodeSegEnc t
  else if op = 0x03#8 then decodeBytes .segDec t
  else if op = 0x10#8 then decodeU8 .leDecide t
  else if op = 0x11#8 then decodeU8Bytes .leSend t
  else if op = 0x20#8 then endRecord .sOpen t
  else if op = 0x21#8 then decodeBytes .sRx t
  else if op = 0x22#8 then endRecord .sTick t
  else if op = 0x30#8 then decodeBytes .rRx t
  else if op = 0x31#8 then endRecord .rClose t
  else if op = 0x40#8 then decodeU8 .regRd t
  else if op = 0x41#8 then decodeU8U32 .regWr t
  else .error (.unknownOp op)

/-- The command decoder (R58): one of the twelve operations with well-formed operands, or the reason it is none. -/
def decode : Bytes → Except DecodeError Instr
  | [] => .error .emptyRecord
  | op :: t => decodeOp op t

/-- The command record of an operation (R55, R56, R57). -/
def encode : Instr → Bytes
  | .crcGen data => 0x01#8 :: encBytes data
  | .segEnc flags seq ack payload => 0x02#8 :: flags :: (encU32 seq ++ encU32 ack ++ encBytes payload)
  | .segDec frame => 0x03#8 :: encBytes frame
  | .leDecide dir => [0x10#8, dir]
  | .leSend dir frame => 0x11#8 :: dir :: encBytes frame
  | .sOpen => [0x20#8]
  | .sRx frame => 0x21#8 :: encBytes frame
  | .sTick => [0x22#8]
  | .rRx frame => 0x30#8 :: encBytes frame
  | .rClose => [0x31#8]
  | .regRd addr => [0x40#8, addr]
  | .regWr addr data => 0x41#8 :: addr :: encU32 data

/-- The `n` bytes of `w` as spec/opcode_table.json numbers them: bits 7..0 are the first byte of the record. -/
def tableBytes : Nat → Nat → Bytes
  | 0, _ => []
  | n + 1, w => BitVec.ofNat 8 w :: tableBytes n (w >>> 8)

/-- The number stored in four bytes at index `at` of a record whose missing bytes are zero. -/
def lengthField (pos : Nat) (r : Bytes) : Nat := beNat (((r ++ zeros (pos + 4)).drop pos).take 4)

/-- How many bytes the operands of a record need (R56, R57), its missing bytes read as zero; 0 where the operation
code is none of R56. -/
def recordLength (r : Bytes) : Nat :=
  let op := r.headD 0x00#8
  if op = 0x01#8 ∨ op = 0x03#8 ∨ op = 0x21#8 ∨ op = 0x30#8 then 5 + lengthField 1 r
  else if op = 0x02#8 then 14 + lengthField 10 r
  else if op = 0x10#8 ∨ op = 0x40#8 then 2
  else if op = 0x11#8 then 6 + lengthField 2 r
  else if op = 0x20#8 ∨ op = 0x22#8 ∨ op = 0x31#8 then 1
  else if op = 0x41#8 then 6
  else 0

/-- The command record whose first `nbits` bits are `w`, every bit above them 0 up to the length the operation needs
(DESIGN CHOICE, log 14): the opcode table gives a row its operation code alone. -/
def tableRecord (nbits w : Nat) : Bytes :=
  let r := tableBytes ((nbits + 7) / 8) w
  r ++ zeros (recordLength r - r.length)

/-- The operation the decoder reads from the record `tableRecord nbits w`. -/
def decodeTableWord (nbits w : Nat) : Option Instr :=
  match decode (tableRecord nbits w) with
  | .ok i => some i
  | .error _ => none

end Sys2Proof
end

