-- ==== Sys2Proof/Machine/State.lean ====
section
/-! DEFINITION. The architectural state (10_state.md R20), what the spec keeps beside it (the source, the sink, the
transmit ports, the schedule), the reasons to stop, and the state after reset (R38, R150). -/

namespace Sys2Proof.Machine

/-- `SND_STATE` (R29, R82). -/
inductive SndState
  | closed
  | synSent
  | established
  | closing
  deriving DecidableEq, Repr

/-- `RCV_STATE` (R30, R100). -/
inductive RcvState
  | listening
  | established
  | closing
  | closed
  deriving DecidableEq, Repr

/-- The configuration registers (R24, R25, R26). -/
structure CfgRegs where
  /-- `CFG_MSS` -/
  mss : Half
  /-- `CFG_MAX_WIN` -/
  maxWin : Word
  /-- `CFG_RTO_TICKS` -/
  rtoTicks : Word
  /-- `CFG_MAX_RETRY` -/
  maxRetry : Half
  /-- `CFG_ISN` -/
  isn : Word
  /-- `CFG_TOTAL_LEN` -/
  totalLen : Word
  /-- `CFG_LOCAL_PORT` -/
  localPort : Half
  /-- `CFG_REMOTE_PORT` -/
  remotePort : Half
  deriving DecidableEq, Repr

/-- One direction of the injector (R27, R28, R76): its loss threshold (`LE_FLP_T`, `LE_RLP_T`), its corruption
threshold (`LE_FCP_T`, `LE_RCP_T`) and its generator state (`LE_PRNG_FWD`, `LE_PRNG_REV`). -/
structure InjChan where
  lossT : BitVec 17
  corrT : BitVec 17
  prng : Word
  deriving DecidableEq, Repr

/-- The sender working registers (R29) and the three flags (R34). -/
structure Sender where
  /-- `SND_STATE` -/
  st : SndState
  /-- `SND_DONE` -/
  done : Bool
  /-- `SND_FAIL` -/
  fail : Bool
  /-- `SND_TMR_ARMED` -/
  armed : Bool
  /-- `SND_DUPCNT` -/
  dupCnt : BitVec 2
  /-- `SND_RETRY` -/
  retry : Half
  /-- `SND_BASE` -/
  base : Word
  /-- `SND_NEXT` -/
  next : Word
  /-- `SND_END` -/
  endSeq : Word
  /-- `SND_TMR_CNT` -/
  tmrCnt : Word
  deriving DecidableEq, Repr

/-- The names of the sender counters (R32). -/
inductive SndCtr
  | segSent
  | segRcvd
  | retxTo
  | retxFast
  | corrupt
  | dupAck
  | discard
  | bytes
  deriving DecidableEq, Repr

/-- The sender counters (R32). -/
structure SndCounters where
  segSent : Word
  segRcvd : Word
  retxTo : Word
  retxFast : Word
  corrupt : Word
  dupAck : Word
  discard : Word
  bytes : Word
  deriving DecidableEq, Repr

/-- The receiver working registers (R30). -/
structure Receiver where
  /-- `RCV_STATE` -/
  st : RcvState
  /-- `RCV_EXPECTED` -/
  expected : Word
  /-- `RCV_IRS` -/
  irs : Word
  deriving DecidableEq, Repr

/-- The names of the receiver counters (R33). -/
inductive RcvCtr
  | segSent
  | segRcvd
  | corrupt
  | dup
  | ahead
  | discard
  | bytes
  deriving DecidableEq, Repr

/-- The receiver counters (R33). -/
structure RcvCounters where
  segSent : Word
  segRcvd : Word
  corrupt : Word
  dup : Word
  ahead : Word
  discard : Word
  bytes : Word
  deriving DecidableEq, Repr

/-- One thing presented to the block from outside. -/
inductive Input
  /-- A command record (R55): an operation of the host, an arriving frame, a tick. -/
  | record (r : Bytes)
  /-- The reset input (R150). -/
  | reset
  /-- The host prepares a run: a new source and a new, empty sink (R151 step 3; log 7). -/
  | newRun (source : Bytes)
  deriving DecidableEq, Repr

/-- A byte memory: (offset, byte) cells, offsets strictly rising, an unlisted offset holding no value. -/
abbrev Memory := List Host.Cell

/-- The canonical form: offsets strictly rise. -/
def Memory.wf : Memory → Bool
  | [] => true
  | [_] => true
  | c :: d :: m => decide (c.1 < d.1) && Memory.wf (d :: m)

/-- The names of the registers of the CSR space (R36). -/
inductive Csr
  | cfgMss
  | cfgMaxWin
  | cfgRtoTicks
  | cfgMaxRetry
  | cfgIsn
  | cfgTotalLen
  | cfgLocalPort
  | cfgRemotePort
  | leFlpT
  | leFcpT
  | leRlpT
  | leRcpT
  | lePrngFwd
  | lePrngRev
  | sndStatus
  | sndBase
  | sndNext
  | sndEnd
  | sndTmrCnt
  | rcvStatus
  | rcvExpected
  | rcvIrs
  | sndCnt (c : SndCtr)
  | rcvCnt (c : RcvCtr)
  deriving DecidableEq, Repr

/-- The access rights of a register (the Access column of R36). -/
inductive Access
  /-- Read-write, subject to the configuration lock (R37). -/
  | rwLocked
  /-- Read-write at any time. -/
  | rw
  /-- Read-only. -/
  | ro
  deriving DecidableEq, Repr

/-- A decoded segment (R66). -/
structure Segment where
  flags : BitVec 4
  seq : Word
  ack : Word
  len : Half
  payload : Bytes
  deriving DecidableEq, Repr

/-- What the sender takes an arriving segment for (R94); the flag sets it does not act on have none. -/
inductive SndKind
  | ack
  | synAck
  | finAck
  deriving DecidableEq, Repr

/-- What the receiver takes an arriving segment for (R111); the flag sets it does not act on have none. -/
inductive RcvKind
  | syn
  | fin
  | data
  deriving DecidableEq, Repr

/-- Why the machine stops. Nothing in the block faults (93_implementation_defined.md); each constructor stands where the
spec gives a state or a host act no meaning. -/
inductive Fault
  /-- Raised by the sender's reads of the source (`sendData`) for a range R42 and R80 say it never reads: outside
  `0 .. CFG_TOTAL_LEN - 1`, empty, or longer than `CFG_MSS`. Only states that no run reaches raise it (log 8). Safe. -/
  | sourceRange
  /-- Raised by `S.RX` and `S.TICK` where a rule would store a number that does not fit its register (R13). Only states
  that no run reaches raise it (log 9). Safe. -/
  | valueRange
  /-- Raised by the input `newRun` while a run is active or the receiver has left `LISTENING`: R155 and R156 give such
  a run no meaning (log 7). Safe. -/
  | sourceReplaced
  deriving DecidableEq, Repr

/-- Why an instruction has no meaning. -/
inductive Refusal
  /-- Raised by `exec` for an instruction without a meaning yet; no arm of this model raises it. Safe. -/
  | notModelled (mnemonic : String)
  deriving DecidableEq, Repr

/-- The state of the machine. -/
structure State where
  /-- Configuration registers (R24 to R26). -/
  cfg : CfgRegs
  /-- The injector's channel of direction FWD (R27, R28). -/
  fwd : InjChan
  /-- The injector's channel of direction REV (R27, R28). -/
  rev : InjChan
  /-- Sender working registers and flags (R29, R34). -/
  snd : Sender
  /-- Sender counters (R32). -/
  sndCnt : SndCounters
  /-- Receiver working registers (R30). -/
  rcv : Receiver
  /-- Receiver counters (R33). -/
  rcvCnt : RcvCounters
  /-- The input source as far as the host has supplied it (R42; log 1). -/
  src : Memory
  /-- The output sink (R43; log 15). -/
  sink : Bytes
  /-- The frames that have left on the sender's transmit port, oldest first (R75; log 6). -/
  sndOut : List Bytes
  /-- The frames that have left on the receiver's transmit port, oldest first (R75; log 6). -/
  rcvOut : List Bytes
  /-- What is presented to the block: one list per instant, earliest first, each in arrival order (R124; log 3). -/
  inputs : List (List Input)
  /-- MODEL FIELD: how many free choices the arbiter has made (log 2). -/
  arbiterTurn : Nat
  /-- The response to the operation performed last (R55; log 5). -/
  response : Option Response
  deriving DecidableEq, Repr

/-- The configuration after reset (R38). -/
def CfgRegs.reset : CfgRegs :=
  { mss := Config.resetMss, maxWin := Config.resetMaxWin, rtoTicks := 0#32, maxRetry := 0#16, isn := 0#32,
    totalLen := 0#32, localPort := 0#16, remotePort := 0#16 }

/-- Either direction of the injector after reset (R38). -/
def InjChan.reset : InjChan := { lossT := 0#17, corrT := 0#17, prng := Config.resetSeed }

/-- The sender after reset (R38). -/
def Sender.reset : Sender :=
  { st := .closed, done := false, fail := false, armed := false, dupCnt := 0#2, retry := 0#16, base := 0#32,
    next := 0#32, endSeq := 0#32, tmrCnt := 0#32 }

/-- The sender counters after reset (R31, R38). -/
def SndCounters.reset : SndCounters :=
  { segSent := 0#32, segRcvd := 0#32, retxTo := 0#32, retxFast := 0#32, corrupt := 0#32, dupAck := 0#32,
    discard := 0#32, bytes := 0#32 }

/-- The receiver after reset (R38). -/
def Receiver.reset : Receiver := { st := .listening, expected := 0#32, irs := 0#32 }

/-- The receiver counters after reset (R31, R38). -/
def RcvCounters.reset : RcvCounters :=
  { segSent := 0#32, segRcvd := 0#32, corrupt := 0#32, dup := 0#32, ahead := 0#32, discard := 0#32, bytes := 0#32 }

/-- The machine right after reset (R38, R150): an empty sink, nothing emitted, nothing presented. -/
def State.reset : State :=
  { cfg := .reset, fwd := .reset, rev := .reset, snd := .reset, sndCnt := .reset, rcv := .reset, rcvCnt := .reset,
    src := [], sink := [], sndOut := [], rcvOut := [], inputs := [], arbiterTurn := 0, response := none }

end Sys2Proof.Machine
end

