-- ==== Sys2Proof/Machine/Flags.lean ====
section
/-! DEFINITION. The flags: the `FLAGS` byte of a frame and what each engine takes it for (30_encoding.md R52,
42_sender.md R94, 43_receiver.md R111), the status words assembled from the flags and state fields (10_state.md R29,
R30), and the two output lines (60_exceptions.md R123). -/

namespace Sys2Proof.Machine

/-- `DATA` (R52). -/
def flagData : Byte := 0x01#8

/-- `ACK` (R52). -/
def flagAck : Byte := 0x02#8

/-- `SYN` (R52). -/
def flagSyn : Byte := 0x04#8

/-- `FIN` (R52). -/
def flagFin : Byte := 0x08#8

/-- `SYN+ACK` (R108). -/
def flagSynAck : Byte := 0x06#8

/-- `FIN+ACK` (R108). -/
def flagFinAck : Byte := 0x0A#8

/-- `classify_S` (R94): exact matching, every other subset is `NONE`. -/
def classifyS (flags : BitVec 4) : Option SndKind :=
  if flags = 0x2#4 then some .ack
  else if flags = 0x6#4 then some .synAck
  else if flags = 0xA#4 then some .finAck
  else none

/-- `classify_R` (R111): exact matching, every other subset is `NONE`. -/
def classifyR (flags : BitVec 4) : Option RcvKind :=
  if flags = 0x4#4 then some .syn
  else if flags = 0x8#4 then some .fin
  else if flags = 0x1#4 then some .data
  else if flags = 0x3#4 then some .data
  else none

/-- The code of `SND_STATE` (R29). -/
def SndState.code : SndState → BitVec 2
  | .closed => 0#2
  | .synSent => 1#2
  | .established => 2#2
  | .closing => 3#2

/-- The code of `RCV_STATE` (R30). -/
def RcvState.code : RcvState → BitVec 2
  | .listening => 0#2
  | .established => 1#2
  | .closing => 2#2
  | .closed => 3#2

/-- `SND_STATUS` (R29): `SND_RETRY` in bits 31..16, zeros in 15..7, `SND_DUPCNT` in 6..5, `SND_TMR_ARMED` in 4,
`SND_FAIL` in 3, `SND_DONE` in 2, `SND_STATE` in 1..0. -/
def Sender.status (s : Sender) : Word :=
  s.retry ++ 0#9 ++ s.dupCnt ++ BitVec.ofBool s.armed ++ BitVec.ofBool s.fail ++ BitVec.ofBool s.done ++ s.st.code

/-- `RCV_STATUS` (R30): `RCV_STATE` in bits 1..0, zeros above. -/
def Receiver.status (r : Receiver) : Word := r.st.code.setWidth 32

/-- The output line `snd_done` (R123). -/
def State.sndDoneLine (s : State) : Bool := s.snd.done

/-- The output line `snd_fail` (R123). -/
def State.sndFailLine (s : State) : Bool := s.snd.fail

end Sys2Proof.Machine
end

