-- ==== Sys2Proof/Machine/Ops.lean ====
section
/-! DEFINITION. The named operations the meanings share: the checksum, the frame formatter and parser (40_codec.md), the
injector (41_link_emulator.md), the source and the sink (20_memory.md), the counters, the responses, the raising of an
outcome (60_exceptions.md R120), the timer and the failure of a run (42_sender.md R81, R92), and the register space
(44_csr_access.md). -/

namespace Sys2Proof.Machine

/-! ## The checksum (R60) -/

/-- One bit of the checksum: the register shifted right by one, and the polynomial where the bit shifted out is 1. -/
def crcBit (c : Word) : Word :=
  if c.getLsbD 0 then (c >>> 1) ^^^ 0xEDB88320#32 else c >>> 1

/-- One byte of the checksum: it enters the low 8 bits, then eight bits are shifted out. -/
def crcByte (c : Word) (b : Byte) : Word :=
  crcBit (crcBit (crcBit (crcBit (crcBit (crcBit (crcBit (crcBit (c ^^^ b.setWidth 32))))))))

/-- `k c`; the test makes Lean's kernel evaluate `c` before it goes on, so that a long checksum can be evaluated. -/
def forced {α : Type} (c : Word) (k : Word → α) : α := if c = 0#32 then k 0#32 else k c

/-- The loop of R60 over the bytes in index order, from register value `c`. -/
def crcFrom : Word → Bytes → Word
  | c, [] => c
  | c, b :: s => forced (crcByte c b) fun c' => crcFrom c' s

/-- `CRC32(s)` (R60). -/
def crc32 (s : Bytes) : Word := crcFrom 0xFFFFFFFF#32 s ^^^ 0xFFFFFFFF#32

/-! ## The frame formatter and parser (R50, R62, R63) -/

/-- The first twelve header bytes: `SEQ`, `ACK`, `FLAGS` with bits 7..4 zero, `RSVD` zero, `LEN` (R50, R53). -/
def encHead (flags : Byte) (seq ack : Word) (payload : Bytes) : Bytes :=
  encU32 seq ++ encU32 ack ++ [flags &&& 0x0F#8, 0x00#8] ++ beBytes 2 payload.length

/-- `ENC(flags, seq, ack, payload)` (R62): the checksum of the frame with a zero checksum field goes into that field. -/
def enc (flags : Byte) (seq ack : Word) (payload : Bytes) : Bytes :=
  encHead flags seq ack payload
    ++ encU32 (crc32 (encHead flags seq ack payload ++ zeros 4 ++ payload)) ++ payload

/-- The frame with its checksum field zeroed (R63). -/
def clearCrc (frame : Bytes) : Bytes := frame.take 12 ++ zeros 4 ++ frame.drop 16

/-- The bytes `frame[i..j]` (R12). -/
def slice (frame : Bytes) (i j : Nat) : Bytes := (frame.take j).drop i

/-- `DEC(frame)` (R63): the segment, or none for `CorruptionDetected`. -/
def dec (frame : Bytes) : Option Segment :=
  if frame.length < Config.hdrLen then none
  else if (crc32 (clearCrc frame)).toNat ≠ beNat (slice frame 12 16) then none
  else if beNat (slice frame 10 12) ≠ frame.length - Config.hdrLen then none
  else some
    { flags := (frame.getD 8 0x00#8).setWidth 4
      seq := BitVec.ofNat 32 (beNat (slice frame 0 4))
      ack := BitVec.ofNat 32 (beNat (slice frame 4 8))
      len := BitVec.ofNat 16 (beNat (slice frame 10 12))
      payload := frame.drop 16 }

/-! ## The injector (R70 to R76) -/

/-- `NEXT(s)` (R70). -/
def prngNext (s : Word) : Word :=
  let a := s ^^^ (s <<< 13)
  let b := a ^^^ (a >>> 17)
  b ^^^ (b <<< 5)

/-- `DRAW` (R71) on the channel of one direction: the new generator state is also the value drawn. -/
def InjChan.draw (c : InjChan) : InjChan := { c with prng := prngNext c.prng }

/-- The comparison of a trial (R72): the upper 16 bits of the draw are below the threshold. -/
def fires (r : Word) (t : BitVec 17) : Bool := decide ((r >>> 16).toNat < t.toNat)

/-- `DECIDE` (R73): the loss trial first, the corruption trial only where the loss trial does not fire. -/
def InjChan.decide (c : InjChan) : Verdict × InjChan :=
  if fires c.draw.prng c.lossT then (.drop, c.draw)
  else if fires c.draw.draw.prng c.corrT then (.corrupt, c.draw.draw)
  else (.pass, c.draw.draw)

/-- The frame with all eight bits of the byte at `pos` inverted (R74). -/
def flipByte (frame : Bytes) (pos : Nat) : Bytes := frame.modify pos (· ^^^ 0xFF#8)

/-- `SEND` (R74): the verdict, the delivered frame where there is one, and the channel after the draws. -/
def InjChan.send (c : InjChan) (frame : Bytes) : Verdict × Option Bytes × InjChan :=
  match c.decide with
  | (.drop, c') => (.drop, none, c')
  | (.pass, c') => (.pass, some frame, c')
  | (.corrupt, c') =>
    if frame.length = 0 then (.corrupt, some frame, c')
    else (.corrupt, some (flipByte frame (c'.draw.prng.toNat % frame.length)), c'.draw)

/-- The injector's channel of a direction (R76). -/
def State.chan (s : State) : Dir → InjChan
  | .fwd => s.fwd
  | .rev => s.rev

/-- Replaces the injector's channel of a direction. -/
def State.setChan (s : State) : Dir → InjChan → State
  | .fwd, c => { s with fwd := c }
  | .rev, c => { s with rev := c }

/-- Replaces the sender's working registers. -/
def State.setSnd (s : State) (x : Sender) : State := { s with snd := x }

/-- Replaces the receiver's working registers. -/
def State.setRcv (s : State) (x : Receiver) : State := { s with rcv := x }

/-! ## Responses and outcomes (R55, R120) -/

/-- The operation ends with outcome `OK` and these results. -/
def State.answer (s : State) (r : Results) : State := { s with response := some ⟨.ok, r⟩ }

/-- `raise` (R13, R120), the block's one way of ending an operation otherwise than `OK`: the outcome byte is answered,
nothing else of the state changes, and the next operation is performed as if this one had not been presented. -/
def State.raise (s : State) (o : OutcomeCode) : Host.Outcome State Fault Refusal :=
  .next { s with response := some ⟨o, .none⟩ }

/-- The end of an engine operation that used the sender's transmit port: the response lists the frames that left on it
since the state `s` the operation began in. -/
def State.answerSnd (s : State) : Except Fault State → Host.Outcome State Fault Refusal
  | .ok t => .next (t.answer (.frames (t.sndOut.drop s.sndOut.length)))
  | .error f => .fault f

/-- The same for the receiver's transmit port. -/
def State.answerRcv (s : State) (t : State) : Host.Outcome State Fault Refusal :=
  .next (t.answer (.frames (t.rcvOut.drop s.rcvOut.length)))

/-- A number stored in a register of `w` bits, which it must fit (R13; log 9). -/
def fit (w v : Nat) : Except Fault (BitVec w) :=
  if v < 2 ^ w then .ok (BitVec.ofNat w v) else .error .valueRange

/-! ## Counters (R31) -/

/-- `count(C, n)` on a sender counter: modulo 2^32. -/
def SndCounters.add (k : SndCounters) (n : Nat) : SndCtr → SndCounters
  | .segSent => { k with segSent := k.segSent + BitVec.ofNat 32 n }
  | .segRcvd => { k with segRcvd := k.segRcvd + BitVec.ofNat 32 n }
  | .retxTo => { k with retxTo := k.retxTo + BitVec.ofNat 32 n }
  | .retxFast => { k with retxFast := k.retxFast + BitVec.ofNat 32 n }
  | .corrupt => { k with corrupt := k.corrupt + BitVec.ofNat 32 n }
  | .dupAck => { k with dupAck := k.dupAck + BitVec.ofNat 32 n }
  | .discard => { k with discard := k.discard + BitVec.ofNat 32 n }
  | .bytes => { k with bytes := k.bytes + BitVec.ofNat 32 n }

/-- The value of a sender counter. -/
def SndCounters.get (k : SndCounters) : SndCtr → Word
  | .segSent => k.segSent
  | .segRcvd => k.segRcvd
  | .retxTo => k.retxTo
  | .retxFast => k.retxFast
  | .corrupt => k.corrupt
  | .dupAck => k.dupAck
  | .discard => k.discard
  | .bytes => k.bytes

/-- `count(C, n)` on a receiver counter: modulo 2^32. -/
def RcvCounters.add (k : RcvCounters) (n : Nat) : RcvCtr → RcvCounters
  | .segSent => { k with segSent := k.segSent + BitVec.ofNat 32 n }
  | .segRcvd => { k with segRcvd := k.segRcvd + BitVec.ofNat 32 n }
  | .corrupt => { k with corrupt := k.corrupt + BitVec.ofNat 32 n }
  | .dup => { k with dup := k.dup + BitVec.ofNat 32 n }
  | .ahead => { k with ahead := k.ahead + BitVec.ofNat 32 n }
  | .discard => { k with discard := k.discard + BitVec.ofNat 32 n }
  | .bytes => { k with bytes := k.bytes + BitVec.ofNat 32 n }

/-- The value of a receiver counter. -/
def RcvCounters.get (k : RcvCounters) : RcvCtr → Word
  | .segSent => k.segSent
  | .segRcvd => k.segRcvd
  | .corrupt => k.corrupt
  | .dup => k.dup
  | .ahead => k.ahead
  | .discard => k.discard
  | .bytes => k.bytes

/-- `count(SND_CNT_c, n)`. -/
def State.countS (s : State) (c : SndCtr) (n : Nat := 1) : State := { s with sndCnt := s.sndCnt.add n c }

/-- `count(RCV_CNT_c, n)`. -/
def State.countR (s : State) (c : RcvCtr) (n : Nat := 1) : State := { s with rcvCnt := s.rcvCnt.add n c }

/-! ## The source and the sink (R42, R43) -/

/-- The value a memory lists at an offset. -/
def Memory.read? : Memory → Nat → Option Byte
  | [], _ => none
  | c :: m, a => if c.1 = a then some c.2 else Memory.read? m a

/-- The byte of the source at an offset (R42): the one the host supplied, else the free one (log 1). -/
def Memory.sourceAt (m : Memory) (a : Nat) : Byte := (m.read? a).getD (Config.sourceByte a)

/-- The `n` bytes of the source at offsets `a .. a + n - 1` (R42), read in one pass over the rising offsets. -/
def Memory.sourceBytes : Memory → Nat → Nat → Bytes
  | _, _, 0 => []
  | m, a, n + 1 =>
    let m' := m.dropWhile (fun c => c.1 < a)
    Memory.sourceAt (m'.take 1) a :: Memory.sourceBytes m' (a + 1) n

/-- The bytes of a source as a memory that starts at offset `a`. -/
def Memory.ofBytes : Nat → Bytes → Memory
  | _, [] => []
  | a, b :: s => (a, b) :: Memory.ofBytes (a + 1) s

/-- Whether the sender may read `n` source bytes from the one with sequence number `seq` on (R42, R80):
`1 <= n <= CFG_MSS` and offsets inside `0 .. CFG_TOTAL_LEN - 1`. -/
def CfgRegs.mayRead (k : CfgRegs) (seq n : Nat) : Bool :=
  decide (1 ≤ n ∧ n ≤ k.mss.toNat ∧ k.isn.toNat ≤ seq ∧ seq - k.isn.toNat + n ≤ k.totalLen.toNat)

/-- `MemRead(SRC, seq - CFG_ISN, n)` (R42). -/
def State.readSource (s : State) (seq n : Nat) : Except Fault Bytes :=
  if s.cfg.mayRead seq n then .ok (s.src.sourceBytes (seq - s.cfg.isn.toNat) n) else .error .sourceRange

/-- `MemWrite(SINK, off, n, v)` (R43): the sink is append-only, so the offset argument is dropped. -/
def State.appendSink (s : State) (v : Bytes) : State := { s with sink := s.sink ++ v }

/-! ## Emission (R75) -/

/-- `emit_S(frame)`: the frame passes the injector, direction FWD; what comes out leaves on the sender's port. -/
def State.emitS (s : State) (frame : Bytes) : State :=
  { s with fwd := (s.fwd.send frame).2.2, sndOut := s.sndOut ++ (s.fwd.send frame).2.1.toList }

/-- `emit_R(frame)`: the frame passes the injector, direction REV; what comes out leaves on the receiver's port. -/
def State.emitR (s : State) (frame : Bytes) : State :=
  { s with rev := (s.rev.send frame).2.2, rcvOut := s.rcvOut ++ (s.rev.send frame).2.1.toList }

/-- A control segment of the sender (R93): no payload, `ACK` zero, counted as sent. -/
def State.sendControl (s : State) (flags : Byte) (seq : Word) : State :=
  (s.emitS (enc flags seq 0#32 [])).countS .segSent

/-- `send_data(seq, n)` (R80). -/
def State.sendData (s : State) (seq n : Nat) : Except Fault State :=
  match s.readSource seq n with
  | .ok p =>
    .ok (((s.emitS (enc flagData (BitVec.ofNat 32 seq) 0#32 p)).countS .segSent).countS .bytes n)
  | .error f => .error f

/-- A segment of the receiver (R108): `SEQ` zero, no payload, counted as sent. -/
def State.sendReply (s : State) (flags : Byte) (ack : Word) : State :=
  (s.emitR (enc flags 0#32 ack [])).countR .segSent

/-! ## The timer and the failure of a run (R81, R92) -/

/-- `arm()` (R81). -/
def State.arm (s : State) : State := s.setSnd { s.snd with armed := true, tmrCnt := s.cfg.rtoTicks }

/-- `disarm()` (R81). -/
def State.disarm (s : State) : State := s.setSnd { s.snd with armed := false, tmrCnt := 0#32 }

/-- `fail()` (R92, R125): the block's one fatal event. Nothing is saved and nothing returns from it but reset (R126). -/
def State.failRun (s : State) : State :=
  (s.setSnd { s.snd with st := .closed, fail := true }).disarm

/-! ## The register space (R36, R37, R115 to R118) -/

/-- Whether no run is active, so that the locked registers can be written (R37). -/
def State.unlocked (s : State) : Bool :=
  decide (s.snd.st = .closed ∧ (s.rcv.st = .listening ∨ s.rcv.st = .closed))

/-- The register at a byte offset of the CSR space (R36); none for an offset that is unmapped or no multiple of 4
(R117). -/
def csrAt (addr : Byte) : Option Csr :=
  if addr = 0x00#8 then some .cfgMss
  else if addr = 0x04#8 then some .cfgMaxWin
  else if addr = 0x08#8 then some .cfgRtoTicks
  else if addr = 0x0C#8 then some .cfgMaxRetry
  else if addr = 0x10#8 then some .cfgIsn
  else if addr = 0x14#8 then some .cfgTotalLen
  else if addr = 0x18#8 then some .cfgLocalPort
  else if addr = 0x1C#8 then some .cfgRemotePort
  else if addr = 0x20#8 then some .leFlpT
  else if addr = 0x24#8 then some .leFcpT
  else if addr = 0x28#8 then some .leRlpT
  else if addr = 0x2C#8 then some .leRcpT
  else if addr = 0x30#8 then some .lePrngFwd
  else if addr = 0x34#8 then some .lePrngRev
  else if addr = 0x40#8 then some .sndStatus
  else if addr = 0x44#8 then some .sndBase
  else if addr = 0x48#8 then some .sndNext
  else if addr = 0x4C#8 then some .sndEnd
  else if addr = 0x50#8 then some .sndTmrCnt
  else if addr = 0x54#8 then some .rcvStatus
  else if addr = 0x58#8 then some .rcvExpected
  else if addr = 0x5C#8 then some .rcvIrs
  else if addr = 0x60#8 then some (.sndCnt .segSent)
  else if addr = 0x64#8 then some (.sndCnt .segRcvd)
  else if addr = 0x68#8 then some (.sndCnt .retxTo)
  else if addr = 0x6C#8 then some (.sndCnt .retxFast)
  else if addr = 0x70#8 then some (.sndCnt .corrupt)
  else if addr = 0x74#8 then some (.sndCnt .dupAck)
  else if addr = 0x78#8 then some (.sndCnt .discard)
  else if addr = 0x7C#8 then some (.sndCnt .bytes)
  else if addr = 0x80#8 then some (.rcvCnt .segSent)
  else if addr = 0x84#8 then some (.rcvCnt .segRcvd)
  else if addr = 0x88#8 then some (.rcvCnt .corrupt)
  else if addr = 0x8C#8 then some (.rcvCnt .dup)
  else if addr = 0x90#8 then some (.rcvCnt .ahead)
  else if addr = 0x94#8 then some (.rcvCnt .discard)
  else if addr = 0x98#8 then some (.rcvCnt .bytes)
  else none

/-- The Access column of R36. -/
def Csr.access : Csr → Access
  | .cfgMss | .cfgMaxWin | .cfgRtoTicks | .cfgMaxRetry | .cfgIsn | .cfgTotalLen | .cfgLocalPort | .cfgRemotePort =>
    .rwLocked
  | .leFlpT | .leFcpT | .leRlpT | .leRcpT | .lePrngFwd | .lePrngRev => .rw
  | .sndStatus | .sndBase | .sndNext | .sndEnd | .sndTmrCnt | .rcvStatus | .rcvExpected | .rcvIrs => .ro
  | .sndCnt _ | .rcvCnt _ => .ro

/-- The value of a register, zero-extended to 32 bits (R115). -/
def State.readCsr (s : State) : Csr → Word
  | .cfgMss => s.cfg.mss.setWidth 32
  | .cfgMaxWin => s.cfg.maxWin
  | .cfgRtoTicks => s.cfg.rtoTicks
  | .cfgMaxRetry => s.cfg.maxRetry.setWidth 32
  | .cfgIsn => s.cfg.isn
  | .cfgTotalLen => s.cfg.totalLen
  | .cfgLocalPort => s.cfg.localPort.setWidth 32
  | .cfgRemotePort => s.cfg.remotePort.setWidth 32
  | .leFlpT => s.fwd.lossT.setWidth 32
  | .leFcpT => s.fwd.corrT.setWidth 32
  | .leRlpT => s.rev.lossT.setWidth 32
  | .leRcpT => s.rev.corrT.setWidth 32
  | .lePrngFwd => s.fwd.prng
  | .lePrngRev => s.rev.prng
  | .sndStatus => s.snd.status
  | .sndBase => s.snd.base
  | .sndNext => s.snd.next
  | .sndEnd => s.snd.endSeq
  | .sndTmrCnt => s.snd.tmrCnt
  | .rcvStatus => s.rcv.status
  | .rcvExpected => s.rcv.expected
  | .rcvIrs => s.rcv.irs
  | .sndCnt c => s.sndCnt.get c
  | .rcvCnt c => s.rcvCnt.get c

/-- `data[15:0]` (R118). -/
def lowHalf (data : Word) : Half := data.setWidth 16

/-- `min(data, 65536)`, the conditioning of a threshold (R118). -/
def clampThreshold (data : Word) : BitVec 17 := BitVec.ofNat 17 (min data.toNat Config.alwaysFires)

/-- The conditioning of a seed (R28, R118): a zero seed becomes 1. -/
def conditionSeed (data : Word) : Word := if data = 0#32 then 1#32 else data

/-- Stores the conditioned word in a writable register (R118); a read-only register is never written. -/
def State.writeCsr (s : State) (data : Word) : Csr → State
  | .cfgMss => { s with cfg := { s.cfg with mss := lowHalf data } }
  | .cfgMaxWin => { s with cfg := { s.cfg with maxWin := data } }
  | .cfgRtoTicks => { s with cfg := { s.cfg with rtoTicks := data } }
  | .cfgMaxRetry => { s with cfg := { s.cfg with maxRetry := lowHalf data } }
  | .cfgIsn => { s with cfg := { s.cfg with isn := data } }
  | .cfgTotalLen => { s with cfg := { s.cfg with totalLen := data } }
  | .cfgLocalPort => { s with cfg := { s.cfg with localPort := lowHalf data } }
  | .cfgRemotePort => { s with cfg := { s.cfg with remotePort := lowHalf data } }
  | .leFlpT => { s with fwd := { s.fwd with lossT := clampThreshold data } }
  | .leFcpT => { s with fwd := { s.fwd with corrT := clampThreshold data } }
  | .leRlpT => { s with rev := { s.rev with lossT := clampThreshold data } }
  | .leRcpT => { s with rev := { s.rev with corrT := clampThreshold data } }
  | .lePrngFwd => { s with fwd := { s.fwd with prng := conditionSeed data } }
  | .lePrngRev => { s with rev := { s.rev with prng := conditionSeed data } }
  | .sndStatus | .sndBase | .sndNext | .sndEnd | .sndTmrCnt | .rcvStatus | .rcvExpected | .rcvIrs => s
  | .sndCnt _ | .rcvCnt _ => s

/-! ## Inputs that are no operations (R150, R151) -/

/-- The reset input (R150): every register takes its reset value; the source, the sink, the channel's frames and what is
still presented are outside the block and stay. -/
def State.applyReset (s : State) : State :=
  { State.reset with
    src := s.src, sink := s.sink, sndOut := s.sndOut, rcvOut := s.rcvOut, inputs := s.inputs,
    arbiterTurn := s.arbiterTurn }

/-- The host prepares a run (R151 step 3; log 7): the new source and an empty sink, before the sender has been opened
and before the receiver has left `LISTENING`; otherwise R155 and R156 give the run no meaning. -/
def State.startRun (s : State) (source : Bytes) : Host.Outcome State Fault Refusal :=
  if s.snd.st = .closed ∧ s.rcv.st = .listening then
    .next { s with src := Memory.ofBytes 0 source, sink := [], response := none }
  else .fault .sourceReplaced

end Sys2Proof.Machine
end

