-- ==== Sys2Proof/Machine/Codec.lean ====
section
/-! DEFINITION. The meanings of the codec operations (40_codec.md). They read and write no register (R61). -/

namespace Sys2Proof.Machine

/-- `CRC.GEN data` (R64). -/
def execCrcGen (data : Bytes) (s : State) : Host.Outcome State Fault Refusal :=
  .next (s.answer (.crc (crc32 data)))

/-- `SEG.ENC flags, seq, ack, payload` (R62). -/
def execSegEnc (flags : Byte) (seq ack : Word) (payload : Bytes) (s : State) : Host.Outcome State Fault Refusal :=
  if payload.length > Config.maxPayload then s.raise .refusedOperand
  else .next (s.answer (.frame (enc flags seq ack payload)))

/-- `SEG.DEC frame` (R63). -/
def execSegDec (frame : Bytes) (s : State) : Host.Outcome State Fault Refusal :=
  match dec frame with
  | none => s.raise .corruptionDetected
  | some g => .next (s.answer (.segment (g.flags.setWidth 8) g.seq g.ack g.payload))

end Sys2Proof.Machine
end

