-- ==== Sys2Proof/Machine/Injector.lean ====
section
/-! DEFINITION. The meanings of the injector operations (41_link_emulator.md). -/

namespace Sys2Proof.Machine

/-- `LE.DECIDE dir` (R73). -/
def execLeDecide (dir : Byte) (s : State) : Host.Outcome State Fault Refusal :=
  match dirOf dir with
  | none => s.raise .refusedOperand
  | some d => .next ((s.setChan d (s.chan d).decide.2).answer (.verdict (s.chan d).decide.1))

/-- `LE.SEND dir, frame` (R74). -/
def execLeSend (dir : Byte) (frame : Bytes) (s : State) : Host.Outcome State Fault Refusal :=
  match dirOf dir with
  | none => s.raise .refusedOperand
  | some d =>
    let r := (s.chan d).send frame
    .next ((s.setChan d r.2.2).answer (.sent r.1 r.2.1))

end Sys2Proof.Machine
end

