-- ==== Sys2Proof/Machine/Receiver.lean ====
section
/-! DEFINITION. The meanings of the receiver engine's operations (43_receiver.md). -/

namespace Sys2Proof.Machine

/-- `R.RX` in `LISTENING` (R102). -/
def State.rxListening (s : State) (kind : RcvKind) (seg : Segment) : State :=
  if kind = .syn then
    (s.setRcv { st := .established, irs := seg.seq, expected := seg.seq }).sendReply flagSynAck seg.seq
  else s.countR .discard

/-- `RCV_EXPECTED + seg.len` (R103), where it does not pass 2^32 - 1. -/
def State.advanced (s : State) (seg : Segment) : Word := BitVec.ofNat 32 (s.rcv.expected.toNat + seg.len.toNat)

/-- The segment at the cursor is delivered (R103): its payload is appended to the sink, the cursor moves behind it, and
the new cursor is acknowledged. -/
def State.deliver (s : State) (seg : Segment) : State :=
  (((s.appendSink seg.payload).setRcv { s.rcv with expected := s.advanced seg }).countR .bytes
    seg.len.toNat).sendReply flagAck (s.advanced seg)

/-- `R.RX` of DATA in `ESTABLISHED` (R103). -/
def State.rxData (s : State) (seg : Segment) : State :=
  if seg.seq = s.rcv.expected then
    if s.rcv.expected.toNat + seg.len.toNat > Config.maxSeq then s.countR .discard else s.deliver seg
  else if seg.seq.toNat < s.rcv.expected.toNat then (s.countR .dup).sendReply flagAck s.rcv.expected
  else (s.countR .ahead).sendReply flagAck s.rcv.expected

/-- `R.RX` of SYN in `ESTABLISHED` (R104). -/
def State.rxSynAgain (s : State) (seg : Segment) : State :=
  if seg.seq = s.rcv.irs then s.sendReply flagSynAck s.rcv.irs else s.countR .discard

/-- `R.RX` of FIN in `ESTABLISHED` (R105). -/
def State.rxFin (s : State) (seg : Segment) : State :=
  if seg.seq = s.rcv.expected then
    (s.setRcv { s.rcv with st := .closing }).sendReply flagFinAck s.rcv.expected
  else s.countR .discard

/-- `R.RX` in `CLOSING` (R106). -/
def State.rxRcvClosing (s : State) (kind : RcvKind) (seg : Segment) : State :=
  if kind = .fin ∧ seg.seq = s.rcv.expected then s.sendReply flagFinAck s.rcv.expected else s.countR .discard

/-- The state rules of `R.RX` (R101). -/
def State.rxRcvState (s : State) (kind : RcvKind) (seg : Segment) : State :=
  match s.rcv.st with
  | .listening => s.rxListening kind seg
  | .established =>
    match kind with
    | .data => s.rxData seg
    | .syn => s.rxSynAgain seg
    | .fin => s.rxFin seg
  | .closing => s.rxRcvClosing kind seg
  | .closed => s

/-- What `R.RX` does with a frame once it has been counted as received (R101). -/
def State.rxRcvFrame (s : State) (frame : Bytes) : State :=
  match dec frame with
  | none => s.countR .corrupt
  | some seg =>
    match classifyR seg.flags with
    | none => s.countR .discard
    | some kind => if seg.len.toNat > s.cfg.mss.toNat then s.countR .discard else s.rxRcvState kind seg

/-- `R.RX frame` (R101, R109). -/
def execRRx (frame : Bytes) (s : State) : Host.Outcome State Fault Refusal :=
  if s.rcv.st = .closed then s.answerRcv s
  else s.answerRcv ((s.countR .segRcvd).rxRcvFrame frame)

/-- `R.CLOSE` (R107). -/
def execRClose (s : State) : Host.Outcome State Fault Refusal :=
  if s.rcv.st ≠ .closing then s.raise .refusedState
  else .next ((s.setRcv { s.rcv with st := .closed }).answer .none)

end Sys2Proof.Machine
end

