-- ==== Sys2Proof/Machine/Registers.lean ====
section
/-! DEFINITION. The meanings of the register access operations (44_csr_access.md). -/

namespace Sys2Proof.Machine

/-- `REG.RD addr` (R115, R117). -/
def execRegRd (addr : Byte) (s : State) : Host.Outcome State Fault Refusal :=
  match csrAt addr with
  | none => s.raise .refusedOperand
  | some r => .next (s.answer (.data (s.readCsr r)))

/-- `REG.WR addr, data` (R116, R117, R118). -/
def execRegWr (addr : Byte) (data : Word) (s : State) : Host.Outcome State Fault Refusal :=
  match csrAt addr with
  | none => s.raise .refusedOperand
  | some r =>
    match r.access with
    | .ro => s.raise .refusedOperand
    | .rwLocked => if s.unlocked then .next ((s.writeCsr data r).answer .none) else s.raise .refusedLocked
    | .rw => .next ((s.writeCsr data r).answer .none)

end Sys2Proof.Machine
end

