-- ==== Sys2Proof/Machine/Sender.lean ====
section
/-! DEFINITION. The meanings of the sender engine's operations (42_sender.md). -/

namespace Sys2Proof.Machine

/-- Whether the window has room and source bytes remain unsent: the condition of the loop of R85. -/
def State.mayFill (s : State) : Bool :=
  decide (s.snd.next.toNat - s.snd.base.toNat < s.cfg.maxWin.toNat ∧ s.snd.next.toNat < s.snd.endSeq.toNat)

/-- The size of the next DATA segment (R85): `min(CFG_MSS, SND_END - SND_NEXT, SND_BASE + CFG_MAX_WIN - SND_NEXT)`. -/
def State.fillSize (s : State) : Nat :=
  min s.cfg.mss.toNat (min (s.snd.endSeq.toNat - s.snd.next.toNat)
    (s.snd.base.toNat + s.cfg.maxWin.toNat - s.snd.next.toNat))

/-- `SND_NEXT <- SND_NEXT + n`, and the timer is armed where nothing was outstanding before (R85). -/
def State.advanceNext (s : State) (n : Nat) (wasEmpty : Bool) : State :=
  if wasEmpty then (s.setSnd { s.snd with next := BitVec.ofNat 32 (s.snd.next.toNat + n) }).arm
  else s.setSnd { s.snd with next := BitVec.ofNat 32 (s.snd.next.toNat + n) }

/-- One iteration of the loop of R85. -/
def State.fillOne (s : State) : Except Fault State :=
  match s.sendData s.snd.next.toNat s.fillSize with
  | .error f => .error f
  | .ok t => .ok (t.advanceNext s.fillSize (decide (s.snd.next = s.snd.base)))

/-- The loop of R85, at most `k` iterations. -/
def State.fillLoop : Nat → State → Except Fault State
  | 0, s => .ok s
  | k + 1, s =>
    if s.mayFill then
      match s.fillOne with
      | .ok t => State.fillLoop k t
      | .error f => .error f
    else .ok s

/-- `fill()` (R85): every iteration sends at least one byte, so `SND_END - SND_NEXT` iterations exhaust the loop. -/
def State.fill (s : State) : Except Fault State :=
  State.fillLoop (s.snd.endSeq.toNat - s.snd.next.toNat) s

/-- The FIN is sent and the sender goes to `CLOSING` (R86). -/
def State.beginClosing (s : State) : State :=
  ((s.sendControl flagFin s.snd.base).setSnd { s.snd with st := .closing, retry := 0#16, dupCnt := 0#2 }).arm

/-- `finish_check()` (R86). -/
def State.finishCheck (s : State) : State :=
  if s.snd.st = .established ∧ s.snd.base = s.snd.endSeq then s.beginClosing else s

/-- `fill()` and then `finish_check()`, the end of R87 and of R88. -/
def State.fillAndFinish (s : State) : Except Fault State :=
  match s.fill with
  | .ok t => .ok t.finishCheck
  | .error f => .error f

/-- The sender's registers as `S.OPEN` leaves them, the timer apart (R83). -/
def Sender.opened (x : Sender) (k : CfgRegs) : Sender :=
  { x with
    st := .synSent, endSeq := BitVec.ofNat 32 (k.isn.toNat + k.totalLen.toNat), base := k.isn, next := k.isn,
    dupCnt := 0#2, retry := 0#16 }

/-- `S.OPEN` (R83). -/
def execSOpen (s : State) : Host.Outcome State Fault Refusal :=
  if s.snd.st ≠ .closed ∨ s.snd.done = true ∨ s.snd.fail = true then s.raise .refusedState
  else if s.cfg.mss = 0#16 ∨ s.cfg.maxWin = 0#32 ∨ s.cfg.rtoTicks = 0#32
      ∨ s.cfg.isn.toNat + s.cfg.totalLen.toNat > Config.maxSeq then s.raise .refusedConfig
  else s.answerSnd (.ok ((s.sendControl flagSyn s.cfg.isn).setSnd (s.snd.opened s.cfg)).arm)

/-- The handshake is complete (R87): `ESTABLISHED`, the window empty at `CFG_ISN`, the timer disarmed. -/
def State.establish (s : State) : State :=
  (s.setSnd
    { s.snd with
      st := .established, base := s.cfg.isn, next := s.cfg.isn, dupCnt := 0#2, retry := 0#16 }).disarm

/-- `S.RX` in `SYN_SENT` (R87). -/
def State.rxSynSent (s : State) (kind : SndKind) (seg : Segment) : Except Fault State :=
  if kind = .synAck ∧ seg.ack = s.cfg.isn then s.establish.fillAndFinish else .ok (s.countS .discard)

/-- `SND_BASE <- ack` with the duplicate and retry counts zeroed and the timer disarmed (R88). -/
def State.advanceBase (s : State) (ack : Word) : State :=
  (s.setSnd { s.snd with base := ack, dupCnt := 0#2, retry := 0#16 }).disarm

/-- `S.RX` in `ESTABLISHED` of an ACK that makes progress (R88): the timer is armed again where bytes are left
outstanding. -/
def State.ackProgress (s : State) (ack : Word) : Except Fault State :=
  if s.snd.next.toNat > ack.toNat then (s.advanceBase ack).arm.fillAndFinish else (s.advanceBase ack).fillAndFinish

/-- `S.RX` in `ESTABLISHED` of a duplicate ACK (R89). -/
def State.ackDuplicate (s : State) : Except Fault State :=
  if s.snd.dupCnt.toNat + 1 = Config.dupThresh then
    match (s.countS .dupAck).sendData s.snd.base.toNat
        (min s.cfg.mss.toNat (s.snd.next.toNat - s.snd.base.toNat)) with
    | .error f => .error f
    | .ok t => .ok ((t.countS .retxFast).setSnd { s.snd with dupCnt := 0#2 })
  else
    match fit 2 (s.snd.dupCnt.toNat + 1) with
    | .error f => .error f
    | .ok d => .ok ((s.countS .dupAck).setSnd { s.snd with dupCnt := d })

/-- `S.RX` in `ESTABLISHED` (R88, R89, R96). -/
def State.rxEstablished (s : State) (kind : SndKind) (seg : Segment) : Except Fault State :=
  if kind = .ack ∧ s.snd.base.toNat < seg.ack.toNat ∧ seg.ack.toNat ≤ s.snd.next.toNat then s.ackProgress seg.ack
  else if kind = .ack ∧ seg.ack = s.snd.base ∧ s.snd.next.toNat > s.snd.base.toNat then s.ackDuplicate
  else .ok (s.countS .discard)

/-- `S.RX` in `CLOSING` (R90). -/
def State.rxSndClosing (s : State) (kind : SndKind) (seg : Segment) : State :=
  if kind = .finAck ∧ seg.ack = s.snd.base then
    (s.setSnd { s.snd with st := .closed, done := true }).disarm
  else s.countS .discard

/-- The state rules of `S.RX` (R84). -/
def State.rxSndState (s : State) (kind : SndKind) (seg : Segment) : Except Fault State :=
  match s.snd.st with
  | .closed => .ok s
  | .synSent => s.rxSynSent kind seg
  | .established => s.rxEstablished kind seg
  | .closing => .ok (s.rxSndClosing kind seg)

/-- What `S.RX` does with a frame once it has been counted as received (R84). -/
def State.rxSndFrame (s : State) (frame : Bytes) : Except Fault State :=
  match dec frame with
  | none => .ok (s.countS .corrupt)
  | some seg =>
    match classifyS seg.flags with
    | none => .ok (s.countS .discard)
    | some kind =>
      if seg.len.toNat > s.cfg.mss.toNat then .ok (s.countS .discard) else s.rxSndState kind seg

/-- `S.RX frame` (R84). -/
def execSRx (frame : Bytes) (s : State) : Host.Outcome State Fault Refusal :=
  if s.snd.st = .closed then s.answerSnd (.ok s)
  else s.answerSnd ((s.countS .segRcvd).rxSndFrame frame)

/-- The Go-Back-N loop of R91 from sequence number `p`, at most `k` iterations. -/
def State.resendLoop : Nat → Nat → State → Except Fault State
  | 0, _, s => .ok s
  | k + 1, p, s =>
    if p < s.snd.next.toNat then
      match s.sendData p (min s.cfg.mss.toNat (s.snd.next.toNat - p)) with
      | .error f => .error f
      | .ok t => State.resendLoop k (p + min s.cfg.mss.toNat (s.snd.next.toNat - p)) (t.countS .retxTo)
    else .ok s

/-- What an expiry that does not end the run resends (R91). -/
def State.resend (s : State) : Except Fault State :=
  match s.snd.st with
  | .synSent => .ok ((s.sendControl flagSyn s.cfg.isn).countS .retxTo)
  | .established => State.resendLoop (s.snd.next.toNat - s.snd.base.toNat) s.snd.base.toNat s
  | .closing => .ok ((s.sendControl flagFin s.snd.base).countS .retxTo)
  | .closed => .ok s

/-- The expiry of the timer (R91, R92). -/
def State.expire (s : State) : Except Fault State :=
  if s.snd.retry = s.cfg.maxRetry then .ok s.failRun
  else
    match fit 16 (s.snd.retry.toNat + 1) with
    | .error f => .error f
    | .ok r =>
      match (s.setSnd { s.snd with retry := r }).resend with
      | .error f => .error f
      | .ok t => .ok t.arm

/-- `SND_TMR_CNT <- SND_TMR_CNT - 1` (R91). -/
def State.countDown (s : State) : State := s.setSnd { s.snd with tmrCnt := s.snd.tmrCnt - 1#32 }

/-- One tick of an armed timer (R91): below zero the pseudocode names no number (log 9). -/
def State.tick (s : State) : Except Fault State :=
  if s.snd.tmrCnt = 0#32 then .error .valueRange
  else if s.snd.tmrCnt - 1#32 ≠ 0#32 then .ok s.countDown
  else s.countDown.expire

/-- `S.TICK` (R91). -/
def execSTick (s : State) : Host.Outcome State Fault Refusal :=
  if s.snd.armed = false then s.answerSnd (.ok s) else s.answerSnd s.tick

end Sys2Proof.Machine
end

