-- ==== Sys2Proof/Machine/Dispatch.lean ====
section
/-! DEFINITION. The dispatch of each operation to its meaning (30_encoding.md R56). -/

namespace Sys2Proof.Machine

def exec (i : Instr) (s : State) : Host.Outcome State Fault Refusal :=
  match i with
  | .crcGen data => Sys2Proof.Machine.execCrcGen data s
  | .segEnc flags seq ack payload => Sys2Proof.Machine.execSegEnc flags seq ack payload s
  | .segDec frame => Sys2Proof.Machine.execSegDec frame s
  | .leDecide dir => Sys2Proof.Machine.execLeDecide dir s
  | .leSend dir frame => Sys2Proof.Machine.execLeSend dir frame s
  | .sOpen => Sys2Proof.Machine.execSOpen s
  | .sRx frame => Sys2Proof.Machine.execSRx frame s
  | .sTick => Sys2Proof.Machine.execSTick s
  | .rRx frame => Sys2Proof.Machine.execRRx frame s
  | .rClose => Sys2Proof.Machine.execRClose s
  | .regRd addr => Sys2Proof.Machine.execRegRd addr s
  | .regWr addr data => Sys2Proof.Machine.execRegWr addr data s

end Sys2Proof.Machine
end

