-- ==== Sys2Proof/Machine/Arbiter.lean ====
section
/-! DEFINITION. The operation arbiter (60_exceptions.md R124): which of the inputs presented at one instant is performed
next, and the performing of one input (30_encoding.md R55, R58; 70_reset_and_hazards.md R150). -/

namespace Sys2Proof.Machine

/-- The operation a presented input stands for; none for a malformed record and for an input that is no record. -/
def Input.instr? : Input → Option Instr
  | .record r => (decode r).toOption
  | .reset => none
  | .newRun _ => none

/-- The input is a frame arriving for the sender. -/
def Input.isSRx (x : Input) : Bool :=
  match x.instr? with
  | some (.sRx _) => true
  | _ => false

/-- The input is a tick. -/
def Input.isSTick (x : Input) : Bool :=
  match x.instr? with
  | some .sTick => true
  | _ => false

/-- The input is a frame arriving for the receiver. -/
def Input.isRRx (x : Input) : Bool :=
  match x.instr? with
  | some (.rRx _) => true
  | _ => false

/-- Whether the input at index `k` of an instant may be performed next (R124): a tick not while a frame for the sender is
presented (item 1), a frame not before an earlier frame for the same engine (item 3), any other input at once
(item 2). -/
def eligible (now : List Input) (k : Nat) : Bool :=
  match now[k]? with
  | none => false
  | some x =>
    if x.isSTick then !now.any Input.isSRx
    else if x.isSRx then !(now.take k).any Input.isSRx
    else if x.isRRx then !(now.take k).any Input.isRRx
    else true

/-- The indices that may be performed next. -/
def eligibles (now : List Input) : List Nat := (List.range now.length).filter (eligible now)

/-- The index performed next, and the turn counter after the choice: a single candidate is no choice, among several the
free choice picks (log 2). -/
def pick (now : List Input) (turn : Nat) : Nat × Nat :=
  match eligibles now with
  | [] => (0, turn)
  | [k] => (k, turn)
  | k :: ks => ((k :: ks).getD (Config.arbiterChoice turn % (k :: ks).length) k, turn + 1)

/-- Performs one input: a well-formed record is its operation, any other record answers `ILLEGAL_OP` (R58); reset and the
preparing of a run are no operations and answer nothing. -/
def perform (x : Input) (s : State) : Host.Outcome State Fault Refusal :=
  match x with
  | .record r =>
    match decode r with
    | .ok i => exec i s
    | .error _ => s.raise .illegalOp
  | .reset => .next s.applyReset
  | .newRun source => s.startRun source

/-- What remains presented once the input at index `k` of the instant `now` has been taken. -/
def remaining (now : List Input) (k : Nat) (rest : List (List Input)) : List (List Input) :=
  if (now.eraseIdx k).isEmpty then rest else now.eraseIdx k :: rest

/-- The state in which the chosen input is performed: it has been taken from the instant. -/
def State.take (s : State) (now : List Input) (rest : List (List Input)) : State :=
  { s with
    inputs := remaining now (pick now s.arbiterTurn).1 rest
    arbiterTurn := (pick now s.arbiterTurn).2 }

/-- One step of the arbiter: with nothing presented the block does nothing (R122, R150; log 4); otherwise one input of the
earliest instant is taken and performed. -/
def arbiterStep (s : State) : Host.Outcome State Fault Refusal :=
  match s.inputs with
  | [] => .next s
  | now :: rest =>
    match now[(pick now s.arbiterTurn).1]? with
    | none => .next { s with inputs := rest }
    | some x => perform x (s.take now rest)

/-- The state in which `r` is the one input of the next instant (log 3). -/
def State.present (s : State) (r : Bytes) : State := { s with inputs := [.record r] :: s.inputs }

end Sys2Proof.Machine
end

