-- ==== Sys2Proof/Machine/Step.lean ====
section
/-! DEFINITION. One step of the machine, and the placing of a record where the next step takes it. -/

namespace Sys2Proof.Machine

/-- One step: one whole input, performed atomically (00_scope.md R7, 20_memory.md R47). -/
def step : State → Host.Outcome State Fault Refusal := fun s => arbiterStep s

/-- `s` with the record of spec/opcode_table.json's word `w` presented alone at the next instant (log 3, log 14). -/
def State.withFetchWord (s : State) (nbits w : Nat) : State := s.present (tableRecord nbits w)

end Sys2Proof.Machine
end

