-- ==== Sys2Proof/Safety.lean ====
section
/-! DEFINITION. The terms the claims use: the laws of the state (10_state.md R39), the end of a run (60_exceptions.md
R131), what the sink holds (R39 item 8), and reference forms of the checksum (40_codec.md R60), of the cutting of a byte
range into segments (42_sender.md R80), of a list of frames passing the injector (41_link_emulator.md R75), of the
register map (10_state.md R36) and of the two state machines (42_sender.md R82, 43_receiver.md R100). -/

namespace Sys2Proof.Machine

/-- The laws R39 gives for the block's registers, items 1 to 7 and 9, and what they need to be kept by every step: the
thresholds are legal (R27), an active run has a runnable configuration and its latched end (R29, R83), a listening
receiver holds its reset values (R30), the source memory is canonical. Item 6 is claimed of `SND_RETRY` until a run has
ended; `State.RetryBounded` is the item whole (log 12). -/
structure State.Coherent (s : State) : Prop where
  /-- R39 item 1. -/
  oneEnd : ¬(s.snd.done = true ∧ s.snd.fail = true)
  /-- R39 item 1. -/
  endedClosed : s.snd.done = true ∨ s.snd.fail = true → s.snd.st = .closed
  /-- R39 item 2. -/
  ordered : s.snd.st ≠ .closed →
    s.cfg.isn.toNat ≤ s.snd.base.toNat ∧ s.snd.base.toNat ≤ s.snd.next.toNat
      ∧ s.snd.next.toNat ≤ s.snd.endSeq.toNat
  /-- R39 item 3. -/
  window : s.snd.st ≠ .closed → s.snd.next.toNat - s.snd.base.toNat ≤ s.cfg.maxWin.toNat
  /-- R39 item 4. -/
  synSentBase : s.snd.st = .synSent → s.snd.base = s.cfg.isn ∧ s.snd.next = s.cfg.isn
  /-- R39 item 4. -/
  closingBase : s.snd.st = .closing → s.snd.base = s.snd.endSeq ∧ s.snd.next = s.snd.endSeq
  /-- R39 item 5. -/
  timer : s.snd.armed = true ↔
    s.snd.st = .synSent ∨ s.snd.st = .closing
      ∨ (s.snd.st = .established ∧ s.snd.base.toNat < s.snd.next.toNat)
  /-- R39 item 5. -/
  armedCount : s.snd.armed = true →
    1 ≤ s.snd.tmrCnt.toNat ∧ s.snd.tmrCnt.toNat ≤ s.cfg.rtoTicks.toNat
  /-- R39 item 5. -/
  disarmedCount : s.snd.armed = false → s.snd.tmrCnt = 0#32
  /-- R39 item 6. -/
  dupBound : s.snd.dupCnt.toNat ≤ 2
  /-- R39 item 6, until a run has ended (log 12). -/
  retryBound : s.snd.done = false → s.snd.fail = false → s.snd.retry.toNat ≤ s.cfg.maxRetry.toNat
  /-- R29, R38: before its run the sender holds its reset values, since only its own rules write them. -/
  fresh : s.snd.st = .closed → s.snd.done = false → s.snd.fail = false → s.snd = Sender.reset
  /-- R39 item 7. -/
  filled : s.snd.st = .established →
    s.snd.next = s.snd.endSeq ∨ s.snd.next.toNat - s.snd.base.toNat = s.cfg.maxWin.toNat
  /-- R39 item 9. -/
  seeds : s.fwd.prng ≠ 0#32 ∧ s.rev.prng ≠ 0#32
  /-- R27: every stored threshold is legal. -/
  thresholds : s.fwd.lossT.toNat ≤ 65536 ∧ s.fwd.corrT.toNat ≤ 65536 ∧ s.rev.lossT.toNat ≤ 65536
    ∧ s.rev.corrT.toNat ≤ 65536
  /-- R29: `SND_END` was latched by `S.OPEN` and the configuration has been locked since (R37). -/
  latched : s.snd.st ≠ .closed → s.snd.endSeq.toNat = s.cfg.isn.toNat + s.cfg.totalLen.toNat
  /-- R83: only a runnable configuration starts a run. -/
  runnable : s.snd.st ≠ .closed → s.cfg.mss ≠ 0#16 ∧ s.cfg.maxWin ≠ 0#32 ∧ s.cfg.rtoTicks ≠ 0#32
  /-- R30: the cursor registers hold their reset value until a SYN is accepted. -/
  listening : s.rcv.st = .listening → s.rcv.expected = 0#32 ∧ s.rcv.irs = 0#32
  /-- R39 item 8, its part about the registers. -/
  received : s.rcv.irs.toNat ≤ s.rcv.expected.toNat
  /-- The source memory is in its canonical form. -/
  source : s.src.wf = true

/-- R39 item 8, its part about the sink: it holds exactly `RCV_EXPECTED - RCV_IRS` bytes. It holds while the host keeps
its duty of R150 and R156 to start a new sink with a reset (log 13). -/
def State.SinkMatches (s : State) : Prop := s.sink.length = s.rcv.expected.toNat - s.rcv.irs.toNat

/-- The end of a run (R131). -/
def State.runEnded (s : State) : Bool := decide (s.snd.st = .closed) && (s.snd.done != s.snd.fail)

/-- R39 item 6, whole: `SND_DUPCNT <= 2` and `SND_RETRY <= CFG_MAX_RETRY`. -/
def State.RetryBounded (s : State) : Prop :=
  s.snd.dupCnt.toNat ≤ 2 ∧ s.snd.retry.toNat ≤ s.cfg.maxRetry.toNat

/-- After a run has ended, a `REG.WR` presented at the earliest instant stores a `CFG_MAX_RETRY` below the `SND_RETRY`
that the run left (R92, R37): the one way from a state with `State.RetryBounded` to one without (log 12). -/
def State.LowersRetryBudget (s t : State) : Prop :=
  s.runEnded = true
    ∧ ∃ now rest r data, s.inputs = now :: rest ∧ Input.record r ∈ now ∧ decode r = .ok (.regWr 0x0C#8 data)
      ∧ data.toNat % 2 ^ 16 < s.snd.retry.toNat
      ∧ t.cfg = { s.cfg with maxRetry := BitVec.ofNat 16 (data.toNat % 2 ^ 16) } ∧ t.snd = s.snd

/-- Every input presented is a command record: neither reset nor the preparing of a new run is to come. -/
def State.OnlyRecords (s : State) : Prop := ∀ now ∈ s.inputs, ∀ x ∈ now, ∃ r, x = .record r

/-- No input presented prepares a new run. -/
def State.NoNewRun (s : State) : Prop := ∀ now ∈ s.inputs, ∀ source, Input.newRun source ∉ now

/-- The loop body of R60 for one bit, on natural numbers. -/
def crcBitRef (c : Nat) : Nat := if c % 2 = 1 then (c / 2) ^^^ 0xEDB88320 else c / 2

/-- The pseudocode of R60 on natural numbers. -/
def crcRef (s : Bytes) : Nat :=
  (s.foldl (fun c b => (List.range 8).foldl (fun c _ => crcBitRef c) (c ^^^ b.toNat)) 0xFFFFFFFF) ^^^ 0xFFFFFFFF

/-- The pseudocode of `ENC` (R62) on natural numbers. -/
def encRef (flags : Byte) (seq ack : Word) (payload : Bytes) : Bytes :=
  let h := beBytes 4 seq.toNat ++ beBytes 4 ack.toNat ++ [BitVec.ofNat 8 (flags.toNat % 16)] ++ [0x00#8]
    ++ beBytes 2 payload.length ++ zeros 4
  let f := h ++ payload
  f.take 12 ++ beBytes 4 (crcRef f) ++ f.drop 16

/-- The tests of `DEC` (R63): long enough for a header, the checksum matches, `LEN` agrees with the length. -/
def frameGood (frame : Bytes) : Prop :=
  16 ≤ frame.length
    ∧ crcRef (frame.take 12 ++ zeros 4 ++ frame.drop 16) = beNat (slice frame 12 16)
    ∧ beNat (slice frame 10 12) = frame.length - 16

/-- The pseudocode of `NEXT` (R70) on natural numbers. -/
def nextRef (s : Nat) : Nat :=
  let a := s ^^^ (s <<< 13) % 2 ^ 32
  let b := a ^^^ (a >>> 17)
  b ^^^ (b <<< 5) % 2 ^ 32

/-- The pseudocode of `DECIDE` (R73, R71, R72, R76) on one channel: the verdict and the generator state afterwards. -/
def decideRef (c : InjChan) : Verdict × Word :=
  let r1 := prngNext c.prng
  let r2 := prngNext r1
  if r1.toNat / 2 ^ 16 < c.lossT.toNat then (.drop, r1)
  else if r2.toNat / 2 ^ 16 < c.corrT.toNat then (.corrupt, r2)
  else (.pass, r2)

/-- The pseudocode of `SEND` (R74) on one channel: the verdict, what is delivered, the generator state afterwards. -/
def sendRef (c : InjChan) (frame : Bytes) : Verdict × Option Bytes × Word :=
  match decideRef c with
  | (.drop, r) => (.drop, none, r)
  | (.pass, r) => (.pass, some frame, r)
  | (.corrupt, r) =>
    if 0 < frame.length then
      let r3 := prngNext r
      let pos := r3.toNat % frame.length
      (.corrupt, some (frame.take pos ++ [frame.getD pos 0x00#8 ^^^ 0xFF#8] ++ frame.drop (pos + 1)), r3)
    else (.corrupt, some frame, r)

/-- The source bytes with sequence numbers `seq .. seq + n - 1` (R42, R80). -/
def State.sourceRange (s : State) (seq n : Nat) : Bytes :=
  (List.range n).map fun k => s.src.sourceAt (seq - s.cfg.isn.toNat + k)

/-- The range `p .. e - 1` cut from `p` on into pieces of `mss` bytes, the last one shorter where `mss` does not divide it
(R80, R85, R91): the first sequence number and the length of each piece. -/
def pieces (mss p e : Nat) : List (Nat × Nat) :=
  (List.range ((e - p + mss - 1) / mss)).map fun j => (p + j * mss, min mss (e - (p + j * mss)))

/-- The DATA frames (R93) of the range `p .. e - 1` cut in pieces of `CFG_MSS`. -/
def State.dataFrames (s : State) (p e : Nat) : List Bytes :=
  (pieces s.cfg.mss.toNat p e).map fun x => enc 0x01#8 (BitVec.ofNat 32 x.1) 0#32 (s.sourceRange x.1 x.2)

/-- The frames `fs` pass an injector channel in order (R75): the channel afterwards and the frames that come out. -/
def passAll : InjChan → List Bytes → InjChan × List Bytes
  | c, [] => (c, [])
  | c, f :: fs =>
    ((passAll (c.send f).2.2 fs).1, (c.send f).2.1.toList ++ (passAll (c.send f).2.2 fs).2)

/-- `s` after the sender has handed the frames `fs` to its transmit path and answered with those that left (R75,
R56). -/
def State.sentBySender (s : State) (fs : List Bytes) : State :=
  { s with
    fwd := (passAll s.fwd fs).1
    sndOut := s.sndOut ++ (passAll s.fwd fs).2
    response := some ⟨.ok, .frames (passAll s.fwd fs).2⟩ }

/-- `s` after the receiver has handed the frames `fs` to its transmit path and answered with those that left (R75,
R56). -/
def State.sentByReceiver (s : State) (fs : List Bytes) : State :=
  { s with
    rev := (passAll s.rev fs).1
    rcvOut := s.rcvOut ++ (passAll s.rev fs).2
    response := some ⟨.ok, .frames (passAll s.rev fs).2⟩ }

/-- Where the window and the source end for the window base `base` (R85): `min(SND_END, base + CFG_MAX_WIN)`. -/
def State.windowEnd (s : State) (base : Word) : Nat :=
  min s.snd.endSeq.toNat (base.toNat + s.cfg.maxWin.toNat)

/-- The offset is a multiple of 4 and mapped (R36, R117). -/
def mapped (addr : Byte) : Prop :=
  addr.toNat % 4 = 0 ∧ (addr.toNat ≤ 0x34 ∨ (0x40 ≤ addr.toNat ∧ addr.toNat ≤ 0x98))

/-- The value of `SND_STATUS` (R29). -/
def sndStatusRef (x : Sender) : Nat :=
  x.retry.toNat * 2 ^ 16 + x.dupCnt.toNat * 2 ^ 5 + x.armed.toNat * 2 ^ 4 + x.fail.toNat * 2 ^ 3 + x.done.toNat * 2 ^ 2
    + match x.st with
      | .closed => 0
      | .synSent => 1
      | .established => 2
      | .closing => 3

/-- The value of `RCV_STATUS` (R30). -/
def rcvStatusRef (x : Receiver) : Nat :=
  match x.st with
  | .listening => 0
  | .established => 1
  | .closing => 2
  | .closed => 3

/-- The register space (R36): every mapped offset with the value a read of it returns (R115). -/
def registerMap (s : State) : List (Byte × Nat) :=
  [(0x00#8, s.cfg.mss.toNat), (0x04#8, s.cfg.maxWin.toNat), (0x08#8, s.cfg.rtoTicks.toNat),
    (0x0C#8, s.cfg.maxRetry.toNat), (0x10#8, s.cfg.isn.toNat), (0x14#8, s.cfg.totalLen.toNat),
    (0x18#8, s.cfg.localPort.toNat), (0x1C#8, s.cfg.remotePort.toNat)]
  ++ [(0x20#8, s.fwd.lossT.toNat), (0x24#8, s.fwd.corrT.toNat), (0x28#8, s.rev.lossT.toNat),
    (0x2C#8, s.rev.corrT.toNat), (0x30#8, s.fwd.prng.toNat), (0x34#8, s.rev.prng.toNat)]
  ++ [(0x40#8, sndStatusRef s.snd), (0x44#8, s.snd.base.toNat), (0x48#8, s.snd.next.toNat),
    (0x4C#8, s.snd.endSeq.toNat), (0x50#8, s.snd.tmrCnt.toNat), (0x54#8, rcvStatusRef s.rcv),
    (0x58#8, s.rcv.expected.toNat), (0x5C#8, s.rcv.irs.toNat)]
  ++ [(0x60#8, s.sndCnt.segSent.toNat), (0x64#8, s.sndCnt.segRcvd.toNat), (0x68#8, s.sndCnt.retxTo.toNat),
    (0x6C#8, s.sndCnt.retxFast.toNat), (0x70#8, s.sndCnt.corrupt.toNat), (0x74#8, s.sndCnt.dupAck.toNat),
    (0x78#8, s.sndCnt.discard.toNat), (0x7C#8, s.sndCnt.bytes.toNat)]
  ++ [(0x80#8, s.rcvCnt.segSent.toNat), (0x84#8, s.rcvCnt.segRcvd.toNat), (0x88#8, s.rcvCnt.corrupt.toNat),
    (0x8C#8, s.rcvCnt.dup.toNat), (0x90#8, s.rcvCnt.ahead.toNat), (0x94#8, s.rcvCnt.discard.toNat),
    (0x98#8, s.rcvCnt.bytes.toNat)]

/-- `condition(addr, data)` (R118) for the writable offsets. -/
def conditionRef (addr : Byte) (data : Word) : Nat :=
  if addr = 0x00#8 ∨ addr = 0x0C#8 ∨ addr = 0x18#8 ∨ addr = 0x1C#8 then data.toNat % 2 ^ 16
  else if addr = 0x20#8 ∨ addr = 0x24#8 ∨ addr = 0x28#8 ∨ addr = 0x2C#8 then min data.toNat 65536
  else if addr = 0x30#8 ∨ addr = 0x34#8 then if data.toNat ≠ 0 then data.toNat else 1
  else data.toNat

/-- Whether `S.OPEN` accepts the configuration (R83). -/
def CfgRegs.runnable (k : CfgRegs) : Prop :=
  k.mss ≠ 0#16 ∧ k.maxWin ≠ 0#32 ∧ k.rtoTicks ≠ 0#32 ∧ k.isn.toNat + k.totalLen.toNat ≤ 2 ^ 32 - 1

/-- The transition table of the sender (R82): `SND_STATE` after the operation `i`. -/
def sndTransition (i : Instr) (s t : State) : Prop :=
  match i, s.snd.st with
  | .sOpen, .closed =>
    (s.snd.done = false ∧ s.snd.fail = false ∧ s.cfg.runnable → t.snd.st = .synSent)
      ∧ (¬(s.snd.done = false ∧ s.snd.fail = false ∧ s.cfg.runnable) → t.snd.st = .closed)
  | .sRx f, .synSent =>
    let valid := ∃ g, dec f = some g ∧ g.len.toNat ≤ s.cfg.mss.toNat ∧ g.flags = 0x6#4 ∧ g.ack = s.cfg.isn
    (valid ∧ s.cfg.totalLen ≠ 0#32 → t.snd.st = .established)
      ∧ (valid ∧ s.cfg.totalLen = 0#32 → t.snd.st = .closing) ∧ (¬valid → t.snd.st = .synSent)
  | .sRx f, .established =>
    let last := ∃ g, dec f = some g ∧ g.len.toNat ≤ s.cfg.mss.toNat ∧ g.flags = 0x2#4 ∧ s.snd.base.toNat < g.ack.toNat
      ∧ g.ack.toNat ≤ s.snd.next.toNat ∧ g.ack = s.snd.endSeq
    (last → t.snd.st = .closing) ∧ (¬last → t.snd.st = .established)
  | .sRx f, .closing =>
    let valid := ∃ g, dec f = some g ∧ g.len.toNat ≤ s.cfg.mss.toNat ∧ g.flags = 0xA#4 ∧ g.ack = s.snd.base
    (valid → t.snd.st = .closed ∧ t.snd.done = true) ∧ (¬valid → t.snd.st = .closing)
  | .sTick, _ =>
    let spent := s.snd.armed = true ∧ s.snd.tmrCnt = 1#32 ∧ s.snd.retry = s.cfg.maxRetry
    (spent → t.snd.st = .closed ∧ t.snd.fail = true) ∧ (¬spent → t.snd.st = s.snd.st)
  | _, _ => t.snd.st = s.snd.st

/-- The transition table of the receiver (R100): `RCV_STATE` after the operation `i`. -/
def rcvTransition (i : Instr) (s t : State) : Prop :=
  match i, s.rcv.st with
  | .rRx f, .listening =>
    let valid := ∃ g, dec f = some g ∧ g.len.toNat ≤ s.cfg.mss.toNat ∧ g.flags = 0x4#4
    (valid → t.rcv.st = .established) ∧ (¬valid → t.rcv.st = .listening)
  | .rRx f, .established =>
    let valid := ∃ g, dec f = some g ∧ g.len.toNat ≤ s.cfg.mss.toNat ∧ g.flags = 0x8#4 ∧ g.seq = s.rcv.expected
    (valid → t.rcv.st = .closing) ∧ (¬valid → t.rcv.st = .established)
  | .rClose, .closing => t.rcv.st = .closed
  | _, _ => t.rcv.st = s.rcv.st

/-- The operation is one of the sender engine (R129). -/
def isSenderOp : Instr → Bool
  | .sOpen => true
  | .sRx _ => true
  | .sTick => true
  | .crcGen _ => false
  | .segEnc _ _ _ _ => false
  | .segDec _ => false
  | .leDecide _ => false
  | .leSend _ _ => false
  | .rRx _ => false
  | .rClose => false
  | .regRd _ => false
  | .regWr _ _ => false

/-- The operation is one of the receiver engine (R129). -/
def isReceiverOp : Instr → Bool
  | .rRx _ => true
  | .rClose => true
  | .crcGen _ => false
  | .segEnc _ _ _ _ => false
  | .segDec _ => false
  | .leDecide _ => false
  | .leSend _ _ => false
  | .sOpen => false
  | .sRx _ => false
  | .sTick => false
  | .regRd _ => false
  | .regWr _ _ => false

/-- The Raised by column of R120, for the outcomes other than `OK`. -/
def raisedBy (i : Instr) : OutcomeCode → Prop
  | .ok => True
  | .corruptionDetected => ∃ f, i = .segDec f
  | .refusedState => i = .sOpen ∨ i = .rClose
  | .refusedConfig => i = .sOpen
  | .refusedOperand =>
    (∃ k q a p, i = .segEnc k q a p) ∨ (∃ d, i = .leDecide d) ∨ (∃ d f, i = .leSend d f) ∨ (∃ a, i = .regRd a)
      ∨ ∃ a w, i = .regWr a w
  | .refusedLocked => ∃ a w, i = .regWr a w
  | .illegalOp => False

/-- `n` ticks one after the other, each answered before the next is presented. -/
def ticks : Nat → State → Host.Outcome State Fault Refusal
  | 0, s => .next s
  | n + 1, s =>
    match exec .sTick s with
    | .next t => ticks n t
    | .fault f => .fault f
    | .refused r => .refused r

/-- The sink holds the bytes of `src` at offsets `0 ..`. -/
def State.SinkHolds (s : State) (src : Nat → Byte) : Prop := s.sink = (List.range s.sink.length).map src

/-- The two states differ in nothing but the response. -/
def SameButResponse (s t : State) : Prop := { s with response := none } = { t with response := none }

end Sys2Proof.Machine
end

