-- ==== Sys2Proof/Certificates/Slice0/Obligations.lean ====
section
/-! DEFINITION. The statements for the provers: what the rules of spec/ say the operations and the machine do. -/

open Sys2Proof Sys2Proof.Machine

/-! ## Command records and steps -/

/-- R55, R56: the one record at the next instant (log 3) is the operation it decodes to, and nothing stands around it but
the taking of the instant. -/
def Obligations.StepRunsTheDecodedOperation : Prop :=
  ∀ (s : State) (r : Bytes) (rest : List (List Input)) (i : Instr),
    s.inputs = [.record r] :: rest → decode r = .ok i → step s = exec i { s with inputs := rest }

/-- R58: unknown operation codes and records of a wrong length are no operation, every record is an operation or
refused, and the refusal is the whole effect. -/
def Obligations.IllegalRecordsAreRefused : Prop :=
  (∀ (op : Byte) (t : Bytes),
      op.toNat ∉ [0x01, 0x02, 0x03, 0x10, 0x11, 0x20, 0x21, 0x22, 0x30, 0x31, 0x40, 0x41] →
      ∃ e, decode (op :: t) = .error e)
    ∧ (∀ (i : Instr) (t : Bytes), i.wellFormed = true → t ≠ [] → ∃ e, decode (encode i ++ t) = .error e)
    ∧ (∀ (i : Instr) (r t : Bytes), i.wellFormed = true → t ≠ [] → encode i = r ++ t → ∃ e, decode r = .error e)
    ∧ (∀ r : Bytes, (∃ i, decode r = .ok i ∧ i.wellFormed = true ∧ encode i = r) ∨ ∃ e, decode r = .error e)
    ∧ ∀ (s : State) (r : Bytes) (rest : List (List Input)) (e : DecodeError),
      s.inputs = [.record r] :: rest → decode r = .error e →
      step s = .next { s with inputs := rest, response := some ⟨.illegalOp, .none⟩ }

/-- R55, R56, R57: no bit of an operand is lost in its record. -/
def Obligations.DecodeOfEncodeIsTheOperation : Prop :=
  ∀ i : Instr, i.wellFormed = true → decode (encode i) = .ok i

/-- Records written out from R56 and R57 (95_test_vectors.md section 2) decode to the operations they stand for. -/
def Obligations.WrittenOutRecordsDecode : Prop :=
  decode [0x01, 0x00, 0x00, 0x00, 0x01, 0x61] = .ok (.crcGen [0x61])
    ∧ decode [0x02, 0x03, 0x01, 0x02, 0x03, 0x04, 0x0A, 0x0B, 0x0C, 0x0D, 0x00, 0x00, 0x00, 0x02, 0x68, 0x69]
      = .ok (.segEnc 0x03 0x01020304 0x0A0B0C0D [0x68, 0x69])
    ∧ decode [0x11, 0x00, 0x00, 0x00, 0x00, 0x01, 0x00] = .ok (.leSend 0x00 [0x00])
    ∧ decode [0x22] = .ok .sTick
    ∧ decode [0x31] = .ok .rClose
    ∧ decode [0x41, 0x04, 0x00, 0x00, 0x13, 0x88] = .ok (.regWr 0x04 5000)

/-! ## The codec -/

/-- R64 with R60: the checksum is that of the pseudocode on natural numbers, and nothing but the response changes. -/
def Obligations.CrcGenComputesTheChecksum : Prop :=
  ∀ (data : Bytes) (s : State),
    crcRef data < 2 ^ 32
      ∧ exec (.crcGen data) s = .next { s with response := some ⟨.ok, .crc (BitVec.ofNat 32 (crcRef data))⟩ }

/-- R62: the frame of the pseudocode, or the refusal of a payload that `LEN` cannot say. -/
def Obligations.SegEncFormatsTheFrame : Prop :=
  ∀ (flags : Byte) (seq ack : Word) (payload : Bytes) (s : State),
    (payload.length ≤ 65535 →
        (encRef flags seq ack payload).length = 16 + payload.length
          ∧ exec (.segEnc flags seq ack payload) s
            = .next { s with response := some ⟨.ok, .frame (encRef flags seq ack payload)⟩ })
      ∧ (65535 < payload.length →
        exec (.segEnc flags seq ack payload) s = .next { s with response := some ⟨.refusedOperand, .none⟩ })

/-- R63: a frame that meets the three tests is answered with its four fields, any other frame with
`CORRUPTION_DETECTED`. -/
def Obligations.SegDecAcceptsExactly : Prop :=
  ∀ (f : Bytes) (s : State),
    (frameGood f →
        exec (.segDec f) s
          = .next { s with
              response := some ⟨.ok, .segment (BitVec.ofNat 8 ((f.getD 8 0x00#8).toNat % 16))
                (BitVec.ofNat 32 (beNat (slice f 0 4))) (BitVec.ofNat 32 (beNat (slice f 4 8))) (f.drop 16)⟩ })
      ∧ (¬frameGood f → exec (.segDec f) s = .next { s with response := some ⟨.corruptionDetected, .none⟩ })

/-- R65 item 1: the parser gives back what the formatter was given. -/
def Obligations.FormattedFramesParseBack : Prop :=
  ∀ (flags : BitVec 4) (seq ack : Word) (payload : Bytes) (s : State), payload.length ≤ 65535 →
    dec (enc (flags.setWidth 8) seq ack payload)
        = some { flags := flags, seq := seq, ack := ack, len := BitVec.ofNat 16 payload.length, payload := payload }
      ∧ exec (.segDec (enc (flags.setWidth 8) seq ack payload)) s
        = .next { s with response := some ⟨.ok, .segment (flags.setWidth 8) seq ack payload⟩ }

/-- R65 item 2: a frame that parses is the formatter's frame of its segment exactly when its reserved bits are zero. -/
def Obligations.ParsedFramesFormatBack : Prop :=
  ∀ (f : Bytes) (g : Segment), dec f = some g →
    (f.getD 8 0x00#8 &&& 0xF0#8 = 0x00#8 ∧ f.getD 9 0x00#8 = 0x00#8
      ↔ enc (g.flags.setWidth 8) g.seq g.ack g.payload = f)

/-- R53: the formatter sends the twelve reserved bits as zero, and a frame that parses still parses to the same segment
when those bits take any value and the checksum is right for it. -/
def Obligations.ReservedBitsAreIgnored : Prop :=
  (∀ (flags : Byte) (seq ack : Word) (payload : Bytes),
      (enc flags seq ack payload).getD 8 0xFF#8 &&& 0xF0#8 = 0x00#8
        ∧ (enc flags seq ack payload).getD 9 0xFF#8 = 0x00#8)
    ∧ ∀ (f : Bytes) (g : Segment) (high : BitVec 4) (rsvd : Byte), dec f = some g →
      dec (f.take 8 ++ [high ++ g.flags, rsvd] ++ slice f 10 12
          ++ encU32 (crc32 (f.take 8 ++ [high ++ g.flags, rsvd] ++ slice f 10 12 ++ zeros 4 ++ f.drop 16)) ++ f.drop 16)
        = some g

/-- R65 item 4: a formatted frame with exactly one byte changed does not parse. -/
def Obligations.SingleByteDamageIsDetected : Prop :=
  ∀ (flags : Byte) (seq ack : Word) (payload : Bytes) (k : Nat) (b : Byte), payload.length ≤ 65535 →
    k < (enc flags seq ack payload).length → (enc flags seq ack payload).getD k b ≠ b →
    dec ((enc flags seq ack payload).set k b) = none

/-! ## The injector -/

/-- R70: the generator step is the pseudocode on natural numbers, a bijection that keeps zero alone at zero. -/
def Obligations.GeneratorStepIsABijection : Prop :=
  (∀ s : Word, (prngNext s).toNat = nextRef s.toNat)
    ∧ Function.Bijective prngNext ∧ prngNext 0#32 = 0#32 ∧ ∀ s : Word, s ≠ 0#32 → prngNext s ≠ 0#32

/-- R73: the loss trial, then the corruption trial where the loss trial does not fire; a bad direction draws nothing. -/
def Obligations.LeDecideTriesLossFirst : Prop :=
  ∀ (s : State) (dir : Byte),
    (dir = 0x00#8 →
        exec (.leDecide dir) s
          = .next { s with
              fwd := { s.fwd with prng := (decideRef s.fwd).2 }
              response := some ⟨.ok, .verdict (decideRef s.fwd).1⟩ })
      ∧ (dir = 0x01#8 →
        exec (.leDecide dir) s
          = .next { s with
              rev := { s.rev with prng := (decideRef s.rev).2 }
              response := some ⟨.ok, .verdict (decideRef s.rev).1⟩ })
      ∧ (1 < dir.toNat → exec (.leDecide dir) s = .next { s with response := some ⟨.refusedOperand, .none⟩ })

/-- R74: the verdict applied to a frame, with one inverted byte at a drawn position on `CORRUPT`. -/
def Obligations.LeSendAppliesTheVerdict : Prop :=
  ∀ (s : State) (dir : Byte) (frame : Bytes),
    (dir = 0x00#8 →
        exec (.leSend dir frame) s
          = .next { s with
              fwd := { s.fwd with prng := (sendRef s.fwd frame).2.2 }
              response := some ⟨.ok, .sent (sendRef s.fwd frame).1 (sendRef s.fwd frame).2.1⟩ })
      ∧ (dir = 0x01#8 →
        exec (.leSend dir frame) s
          = .next { s with
              rev := { s.rev with prng := (sendRef s.rev frame).2.2 }
              response := some ⟨.ok, .sent (sendRef s.rev frame).1 (sendRef s.rev frame).2.1⟩ })
      ∧ (1 < dir.toNat → exec (.leSend dir frame) s = .next { s with response := some ⟨.refusedOperand, .none⟩ })

/-- R78: every verdict the injector gives has a probability above zero under its thresholds. -/
def Obligations.VerdictsHavePositiveProbability : Prop :=
  ∀ c : InjChan,
    (c.decide.1 = .drop → 0 < c.lossT.toNat)
      ∧ (c.decide.1 = .corrupt → c.lossT.toNat < 65536 ∧ 0 < c.corrT.toNat)
      ∧ (c.decide.1 = .pass → c.lossT.toNat < 65536 ∧ c.corrT.toNat < 65536)

/-- R75: with both thresholds 0 every frame passes unchanged and two draws are consumed for each. -/
def Obligations.ZeroThresholdsPassEveryFrame : Prop :=
  ∀ (c : InjChan) (fs : List Bytes), c.lossT = 0#17 → c.corrT = 0#17 →
    passAll c fs = ({ c with prng := prngNext^[2 * fs.length] c.prng }, fs)

/-- R77 items 3 and 4: what the injector draws depends on the seed, the thresholds and the frame lengths alone, and what
it delivers has the lengths of what it was given. -/
def Obligations.DrawsDependOnLengthsOnly : Prop :=
  ∀ (c : InjChan) (fs gs : List Bytes), fs.map List.length = gs.map List.length →
    (passAll c fs).1 = (passAll c gs).1
      ∧ (passAll c fs).2.map List.length = (passAll c gs).2.map List.length
      ∧ ((passAll c fs).2.map List.length).Sublist (fs.map List.length)

/-! ## The registers -/

/-- R115: a read of a mapped register answers its value and changes nothing, a read of any other offset is refused. -/
def Obligations.RegRdReadsEveryRegister : Prop :=
  ∀ s : State,
    (∀ p ∈ registerMap s,
        p.2 < 2 ^ 32
          ∧ exec (.regRd p.1) s = .next { s with response := some ⟨.ok, .data (BitVec.ofNat 32 p.2)⟩ })
      ∧ ∀ addr : Byte,
        (mapped addr ↔ ∃ v, (addr, v) ∈ registerMap s)
          ∧ (¬mapped addr → exec (.regRd addr) s = .next { s with response := some ⟨.refusedOperand, .none⟩ })

/-- R117: an access to an offset that is unmapped or no multiple of 4, and a write to a read-only register, is refused
and touches nothing. -/
def Obligations.BadAccessesAreRefused : Prop :=
  ∀ (s : State) (addr : Byte) (data : Word),
    (¬mapped addr →
        exec (.regRd addr) s = .next { s with response := some ⟨.refusedOperand, .none⟩ }
          ∧ exec (.regWr addr data) s = .next { s with response := some ⟨.refusedOperand, .none⟩ })
      ∧ (mapped addr → 0x40 ≤ addr.toNat →
        exec (.regWr addr data) s = .next { s with response := some ⟨.refusedOperand, .none⟩ })

/-- R118, R116: an accepted write stores the conditioned value in the one register. -/
def Obligations.RegWrStoresTheConditionedValue : Prop :=
  ∀ (s : State) (d : Word),
    (s.snd.st = .closed → s.rcv.st = .listening ∨ s.rcv.st = .closed →
        let done := some (Response.mk .ok .none)
        exec (.regWr 0x00#8 d) s
            = .next { s with cfg := { s.cfg with mss := BitVec.ofNat 16 (d.toNat % 2 ^ 16) }, response := done }
          ∧ exec (.regWr 0x04#8 d) s = .next { s with cfg := { s.cfg with maxWin := d }, response := done }
          ∧ exec (.regWr 0x08#8 d) s = .next { s with cfg := { s.cfg with rtoTicks := d }, response := done }
          ∧ exec (.regWr 0x0C#8 d) s
            = .next { s with cfg := { s.cfg with maxRetry := BitVec.ofNat 16 (d.toNat % 2 ^ 16) }, response := done }
          ∧ exec (.regWr 0x10#8 d) s = .next { s with cfg := { s.cfg with isn := d }, response := done }
          ∧ exec (.regWr 0x14#8 d) s = .next { s with cfg := { s.cfg with totalLen := d }, response := done }
          ∧ exec (.regWr 0x18#8 d) s
            = .next { s with cfg := { s.cfg with localPort := BitVec.ofNat 16 (d.toNat % 2 ^ 16) }, response := done }
          ∧ exec (.regWr 0x1C#8 d) s
            = .next { s with cfg := { s.cfg with remotePort := BitVec.ofNat 16 (d.toNat % 2 ^ 16) }, response := done })
      ∧ let done := some (Response.mk .ok .none)
        let threshold := BitVec.ofNat 17 (min d.toNat 65536)
        let seed := if d.toNat ≠ 0 then d else 1#32
        exec (.regWr 0x20#8 d) s = .next { s with fwd := { s.fwd with lossT := threshold }, response := done }
          ∧ exec (.regWr 0x24#8 d) s = .next { s with fwd := { s.fwd with corrT := threshold }, response := done }
          ∧ exec (.regWr 0x28#8 d) s = .next { s with rev := { s.rev with lossT := threshold }, response := done }
          ∧ exec (.regWr 0x2C#8 d) s = .next { s with rev := { s.rev with corrT := threshold }, response := done }
          ∧ exec (.regWr 0x30#8 d) s = .next { s with fwd := { s.fwd with prng := seed }, response := done }
          ∧ exec (.regWr 0x34#8 d) s = .next { s with rev := { s.rev with prng := seed }, response := done }

/-- R37: while a run is active a write to a locked register is refused, and no operation changes the configuration. -/
def Obligations.LockedRegistersKeepDuringARun : Prop :=
  ∀ s : State, ¬(s.snd.st = .closed ∧ (s.rcv.st = .listening ∨ s.rcv.st = .closed)) →
    (∀ (addr : Byte) (data : Word), addr.toNat % 4 = 0 → addr.toNat ≤ 0x1C →
        exec (.regWr addr data) s = .next { s with response := some ⟨.refusedLocked, .none⟩ })
      ∧ ∀ (i : Instr) (t : State), exec i s = .next t → t.cfg = s.cfg

/-- R116, R118: what a read answers after an accepted write, at the written offset and at every other. -/
def Obligations.WrittenRegistersReadBack : Prop :=
  ∀ (s t : State) (addr : Byte) (data : Word),
    exec (.regWr addr data) s = .next t → t.response = some ⟨.ok, .none⟩ →
    (∃ u, exec (.regRd addr) t = .next u
        ∧ u.response = some ⟨.ok, .data (BitVec.ofNat 32 (conditionRef addr data))⟩)
      ∧ ∀ other : Byte, mapped other → other ≠ addr →
        ∃ u v, exec (.regRd other) s = .next u ∧ exec (.regRd other) t = .next v ∧ v.response = u.response

/-- R38: what the registers read right after reset. -/
def Obligations.ResetLeavesTheListedValues : Prop :=
  State.reset.sink = []
    ∧ ∀ addr : Byte, mapped addr →
      exec (.regRd addr) State.reset
        = .next { State.reset with
            response := some ⟨.ok, .data
              (if addr = 0x00#8 ∨ addr = 0x04#8 then 1000#32
                else if addr = 0x30#8 ∨ addr = 0x34#8 then 1#32 else 0#32)⟩ }

/-- R150 and the model's reading of what lies outside the block (log 5, log 6): the reset input gives every register its
reset value and keeps the source, the sink, the ports' histories and what is still presented. -/
def Obligations.ResetInputRestoresTheRegisters : Prop :=
  ∀ (s : State) (rest : List (List Input)), s.inputs = [.reset] :: rest →
    step s
      = .next { State.reset with
          src := s.src, sink := s.sink, sndOut := s.sndOut, rcvOut := s.rcvOut, inputs := rest,
          arbiterTurn := s.arbiterTurn }

/-! ## The sender engine -/

/-- R83: the two refusals in their order, else the SYN and the registers of a new run. -/
def Obligations.OpenStartsARun : Prop :=
  ∀ s : State,
    (s.snd.st ≠ .closed ∨ s.snd.done = true ∨ s.snd.fail = true →
        exec .sOpen s = .next { s with response := some ⟨.refusedState, .none⟩ })
      ∧ (s.snd.st = .closed → s.snd.done = false → s.snd.fail = false →
        (¬s.cfg.runnable → exec .sOpen s = .next { s with response := some ⟨.refusedConfig, .none⟩ })
          ∧ (s.cfg.runnable →
            exec .sOpen s
              = .next { s.sentBySender [enc 0x04#8 s.cfg.isn 0#32 []] with
                  snd :=
                    { st := .synSent, done := false, fail := false, armed := true, dupCnt := 0#2, retry := 0#16,
                      base := s.cfg.isn, next := s.cfg.isn, endSeq := s.cfg.isn + s.cfg.totalLen,
                      tmrCnt := s.cfg.rtoTicks }
                  sndCnt := { s.sndCnt with segSent := s.sndCnt.segSent + 1#32 } }))

/-- R84, R94: a closed sender ignores a frame; an active one counts it, and counts a corrupted frame, a segment longer
than `CFG_MSS` and a flag set it does not act on, without any other effect. -/
def Obligations.SenderFrontEndDrops : Prop :=
  ∀ (f : Bytes) (s : State),
    (s.snd.st = .closed → exec (.sRx f) s = .next { s with response := some ⟨.ok, .frames []⟩ })
      ∧ (s.snd.st ≠ .closed → dec f = none →
        exec (.sRx f) s
          = .next { s with
              sndCnt := { s.sndCnt with segRcvd := s.sndCnt.segRcvd + 1#32, corrupt := s.sndCnt.corrupt + 1#32 }
              response := some ⟨.ok, .frames []⟩ })
      ∧ ∀ g : Segment, s.snd.st ≠ .closed → dec f = some g →
        s.cfg.mss.toNat < g.len.toNat ∨ g.flags ∉ [0x2#4, 0x6#4, 0xA#4] →
        exec (.sRx f) s
          = .next { s with
              sndCnt := { s.sndCnt with segRcvd := s.sndCnt.segRcvd + 1#32, discard := s.sndCnt.discard + 1#32 }
              response := some ⟨.ok, .frames []⟩ }

/-- R87 with R85 and R86: the valid SYN+ACK opens the window and fills it, or sends the FIN where the source is empty;
any other segment is discarded. -/
def Obligations.SynAckOpensTheWindow : Prop :=
  ∀ (f : Bytes) (g : Segment) (s : State), s.Coherent → s.snd.st = .synSent → dec f = some g →
    g.len.toNat ≤ s.cfg.mss.toNat →
    (g.flags = 0x6#4 → g.ack = s.cfg.isn → s.cfg.totalLen = 0#32 →
        exec (.sRx f) s
          = .next { s.sentBySender [enc 0x08#8 s.cfg.isn 0#32 []] with
              snd := { s.snd with
                st := .closing, base := s.cfg.isn, next := s.cfg.isn, dupCnt := 0#2, retry := 0#16, armed := true,
                tmrCnt := s.cfg.rtoTicks }
              sndCnt := { s.sndCnt with
                segRcvd := s.sndCnt.segRcvd + 1#32, segSent := s.sndCnt.segSent + 1#32 } })
      ∧ (g.flags = 0x6#4 → g.ack = s.cfg.isn → s.cfg.totalLen ≠ 0#32 →
        let e := s.windowEnd s.cfg.isn
        exec (.sRx f) s
          = .next { s.sentBySender (s.dataFrames s.cfg.isn.toNat e) with
              snd := { s.snd with
                st := .established, base := s.cfg.isn, next := BitVec.ofNat 32 e, dupCnt := 0#2, retry := 0#16,
                armed := true, tmrCnt := s.cfg.rtoTicks }
              sndCnt := { s.sndCnt with
                segRcvd := s.sndCnt.segRcvd + 1#32
                segSent := s.sndCnt.segSent + BitVec.ofNat 32 (pieces s.cfg.mss.toNat s.cfg.isn.toNat e).length
                bytes := s.sndCnt.bytes + BitVec.ofNat 32 (e - s.cfg.isn.toNat) } })
      ∧ (¬(g.flags = 0x6#4 ∧ g.ack = s.cfg.isn) →
        exec (.sRx f) s
          = .next { s with
              sndCnt := { s.sndCnt with segRcvd := s.sndCnt.segRcvd + 1#32, discard := s.sndCnt.discard + 1#32 }
              response := some ⟨.ok, .frames []⟩ })

/-- R88 with R85 and R86: an ACK inside the outstanding range moves the window and fills it, or sends the FIN where
everything is acknowledged. -/
def Obligations.AckMovesTheWindow : Prop :=
  ∀ (f : Bytes) (g : Segment) (s : State), s.Coherent → s.snd.st = .established → dec f = some g →
    g.len.toNat ≤ s.cfg.mss.toNat → g.flags = 0x2#4 → s.snd.base.toNat < g.ack.toNat →
    g.ack.toNat ≤ s.snd.next.toNat →
    (g.ack = s.snd.endSeq →
        exec (.sRx f) s
          = .next { s.sentBySender [enc 0x08#8 g.ack 0#32 []] with
              snd := { s.snd with
                st := .closing, base := g.ack, dupCnt := 0#2, retry := 0#16, armed := true,
                tmrCnt := s.cfg.rtoTicks }
              sndCnt := { s.sndCnt with
                segRcvd := s.sndCnt.segRcvd + 1#32, segSent := s.sndCnt.segSent + 1#32 } })
      ∧ (g.ack ≠ s.snd.endSeq →
        let e := s.windowEnd g.ack
        exec (.sRx f) s
          = .next { s.sentBySender (s.dataFrames s.snd.next.toNat e) with
              snd := { s.snd with
                base := g.ack, next := BitVec.ofNat 32 e, dupCnt := 0#2, retry := 0#16, armed := true,
                tmrCnt := s.cfg.rtoTicks }
              sndCnt := { s.sndCnt with
                segRcvd := s.sndCnt.segRcvd + 1#32
                segSent := s.sndCnt.segSent + BitVec.ofNat 32 (pieces s.cfg.mss.toNat s.snd.next.toNat e).length
                bytes := s.sndCnt.bytes + BitVec.ofNat 32 (e - s.snd.next.toNat) } })

/-- R89: a duplicate ACK is counted, the third one resends the segment at the base and restarts the count, and an ACK at
the base with nothing outstanding is discarded. -/
def Obligations.DuplicateAcksTriggerFastRetransmit : Prop :=
  ∀ (f : Bytes) (g : Segment) (s : State), s.Coherent → s.snd.st = .established → dec f = some g →
    g.len.toNat ≤ s.cfg.mss.toNat → g.flags = 0x2#4 → g.ack = s.snd.base →
    (s.snd.base.toNat < s.snd.next.toNat → s.snd.dupCnt ≠ 2#2 →
        exec (.sRx f) s
          = .next { s with
              snd := { s.snd with dupCnt := s.snd.dupCnt + 1#2 }
              sndCnt := { s.sndCnt with segRcvd := s.sndCnt.segRcvd + 1#32, dupAck := s.sndCnt.dupAck + 1#32 }
              response := some ⟨.ok, .frames []⟩ })
      ∧ (s.snd.base.toNat < s.snd.next.toNat → s.snd.dupCnt = 2#2 →
        let n := min s.cfg.mss.toNat (s.snd.next.toNat - s.snd.base.toNat)
        exec (.sRx f) s
          = .next { s.sentBySender [enc 0x01#8 s.snd.base 0#32 (s.sourceRange s.snd.base.toNat n)] with
              snd := { s.snd with dupCnt := 0#2 }
              sndCnt := { s.sndCnt with
                segRcvd := s.sndCnt.segRcvd + 1#32, dupAck := s.sndCnt.dupAck + 1#32
                segSent := s.sndCnt.segSent + 1#32, bytes := s.sndCnt.bytes + BitVec.ofNat 32 n
                retxFast := s.sndCnt.retxFast + 1#32 } })
      ∧ (s.snd.next.toNat ≤ s.snd.base.toNat →
        exec (.sRx f) s
          = .next { s with
              sndCnt := { s.sndCnt with segRcvd := s.sndCnt.segRcvd + 1#32, discard := s.sndCnt.discard + 1#32 }
              response := some ⟨.ok, .frames []⟩ })

/-- R96: in `ESTABLISHED` an ACK outside the outstanding range, a SYN+ACK and a FIN+ACK are only counted. -/
def Obligations.StraySegmentsAreDiscarded : Prop :=
  ∀ (f : Bytes) (g : Segment) (s : State), s.snd.st = .established → dec f = some g →
    g.len.toNat ≤ s.cfg.mss.toNat →
    (g.flags = 0x2#4 ∧ (g.ack.toNat < s.snd.base.toNat ∨ s.snd.next.toNat < g.ack.toNat))
      ∨ g.flags = 0x6#4 ∨ g.flags = 0xA#4 →
    exec (.sRx f) s
      = .next { s with
          sndCnt := { s.sndCnt with segRcvd := s.sndCnt.segRcvd + 1#32, discard := s.sndCnt.discard + 1#32 }
          response := some ⟨.ok, .frames []⟩ }

/-- R90: the valid FIN+ACK ends the run with success; any other segment is discarded. -/
def Obligations.FinAckEndsTheRun : Prop :=
  ∀ (f : Bytes) (g : Segment) (s : State), s.snd.st = .closing → dec f = some g →
    g.len.toNat ≤ s.cfg.mss.toNat →
    (g.flags = 0xA#4 → g.ack = s.snd.base →
        exec (.sRx f) s
          = .next { s with
              snd := { s.snd with st := .closed, done := true, armed := false, tmrCnt := 0#32 }
              sndCnt := { s.sndCnt with segRcvd := s.sndCnt.segRcvd + 1#32 }
              response := some ⟨.ok, .frames []⟩ })
      ∧ (¬(g.flags = 0xA#4 ∧ g.ack = s.snd.base) →
        exec (.sRx f) s
          = .next { s with
              sndCnt := { s.sndCnt with segRcvd := s.sndCnt.segRcvd + 1#32, discard := s.sndCnt.discard + 1#32 }
              response := some ⟨.ok, .frames []⟩ })

/-- R91: a tick with the timer not armed does nothing, a tick above 1 only counts down. -/
def Obligations.TickCountsDown : Prop :=
  ∀ s : State,
    (s.snd.armed = false → exec .sTick s = .next { s with response := some ⟨.ok, .frames []⟩ })
      ∧ (s.snd.armed = true → 1 < s.snd.tmrCnt.toNat →
        exec .sTick s
          = .next { s with
              snd := { s.snd with tmrCnt := s.snd.tmrCnt - 1#32 }
              response := some ⟨.ok, .frames []⟩ })

/-- R91: an expiry within the retry budget resends the SYN, the whole outstanding range cut from its base, or the FIN,
and restarts the timer. -/
def Obligations.ExpiryResendsFromTheBase : Prop :=
  ∀ s : State, s.Coherent → s.snd.armed = true → s.snd.tmrCnt = 1#32 → s.snd.retry ≠ s.cfg.maxRetry →
    let snd := { s.snd with retry := s.snd.retry + 1#16, tmrCnt := s.cfg.rtoTicks }
    (s.snd.st = .synSent →
        exec .sTick s
          = .next { s.sentBySender [enc 0x04#8 s.cfg.isn 0#32 []] with
              snd := snd
              sndCnt := { s.sndCnt with
                segSent := s.sndCnt.segSent + 1#32, retxTo := s.sndCnt.retxTo + 1#32 } })
      ∧ (s.snd.st = .established →
        let k := BitVec.ofNat 32 (pieces s.cfg.mss.toNat s.snd.base.toNat s.snd.next.toNat).length
        exec .sTick s
          = .next { s.sentBySender (s.dataFrames s.snd.base.toNat s.snd.next.toNat) with
              snd := snd
              sndCnt := { s.sndCnt with
                segSent := s.sndCnt.segSent + k, retxTo := s.sndCnt.retxTo + k
                bytes := s.sndCnt.bytes + (s.snd.next - s.snd.base) } })
      ∧ (s.snd.st = .closing →
        exec .sTick s
          = .next { s.sentBySender [enc 0x08#8 s.snd.base 0#32 []] with
              snd := snd
              sndCnt := { s.sndCnt with
                segSent := s.sndCnt.segSent + 1#32, retxTo := s.sndCnt.retxTo + 1#32 } })

/-- R92, R125: the expiry with the budget spent closes the sender with failure and emits nothing; all else keeps its
value. -/
def Obligations.ExhaustionFailsTheRun : Prop :=
  ∀ s : State, s.snd.armed = true → s.snd.tmrCnt = 1#32 → s.snd.retry = s.cfg.maxRetry →
    exec .sTick s
      = .next { s with
          snd := { s.snd with st := .closed, fail := true, armed := false, tmrCnt := 0#32 }
          response := some ⟨.ok, .frames []⟩ }

/-- R82: the transition table of the sender, complete. -/
def Obligations.SenderFollowsItsTransitionTable : Prop :=
  ∀ (i : Instr) (s t : State), s.Coherent → exec i s = .next t → sndTransition i s t

/-- R34, R90, R92: `SND_DONE` is set exactly by a valid FIN+ACK in `CLOSING` and `SND_FAIL` exactly by exhaustion, no
operation clears either, and only the sender's operations write `SND_TMR_ARMED`. -/
def Obligations.SenderFlagsAreSticky : Prop :=
  ∀ (i : Instr) (s t : State), exec i s = .next t →
    (t.snd.done = true
        ↔ s.snd.done = true
          ∨ ∃ f g, i = .sRx f ∧ s.snd.st = .closing ∧ dec f = some g ∧ g.len.toNat ≤ s.cfg.mss.toNat
            ∧ g.flags = 0xA#4 ∧ g.ack = s.snd.base)
      ∧ (t.snd.fail = true
        ↔ s.snd.fail = true
          ∨ (i = .sTick ∧ s.snd.armed = true ∧ s.snd.tmrCnt = 1#32 ∧ s.snd.retry = s.cfg.maxRetry))
      ∧ (isSenderOp i = false → t.snd.armed = s.snd.armed)

/-- R125, R126, R131: once a run has ended its end stays, frames and ticks do nothing and no run can be opened. -/
def Obligations.EndedRunStaysInactive : Prop :=
  ∀ s : State, s.Coherent → s.snd.done = true ∨ s.snd.fail = true →
    s.runEnded = true
      ∧ (∀ f, exec (.sRx f) s = .next { s with response := some ⟨.ok, .frames []⟩ })
      ∧ exec .sTick s = .next { s with response := some ⟨.ok, .frames []⟩ }
      ∧ exec .sOpen s = .next { s with response := some ⟨.refusedState, .none⟩ }
      ∧ ∀ (i : Instr) (t : State), exec i s = .next t →
        t.runEnded = true ∧ t.snd.done = s.snd.done ∧ t.snd.fail = s.snd.fail

/-- R92, R95 item 6: with nothing but ticks an active sender fails its run after exactly the ticks its timer and its
budget hold, and not before. -/
def Obligations.TicksAloneExhaustTheBudget : Prop :=
  ∀ s : State, s.Coherent → s.snd.armed = true →
    let n := s.snd.tmrCnt.toNat + (s.cfg.maxRetry.toNat - s.snd.retry.toNat) * s.cfg.rtoTicks.toNat
    (∃ t, ticks n s = .next t ∧ t.snd.st = .closed ∧ t.snd.fail = true ∧ t.snd.base = s.snd.base
        ∧ t.snd.next = s.snd.next)
      ∧ ∀ k, k < n → ∃ t, ticks k s = .next t ∧ t.snd.st = s.snd.st ∧ t.snd.fail = false

/-! ## The receiver engine -/

/-- R101, R109, R111: a closed receiver ignores a frame; else it is counted, and a corrupted frame, a segment longer than
`CFG_MSS` and a flag set it does not act on are counted without any other effect. -/
def Obligations.ReceiverFrontEndDrops : Prop :=
  ∀ (f : Bytes) (s : State),
    (s.rcv.st = .closed → exec (.rRx f) s = .next { s with response := some ⟨.ok, .frames []⟩ })
      ∧ (s.rcv.st ≠ .closed → dec f = none →
        exec (.rRx f) s
          = .next { s with
              rcvCnt := { s.rcvCnt with segRcvd := s.rcvCnt.segRcvd + 1#32, corrupt := s.rcvCnt.corrupt + 1#32 }
              response := some ⟨.ok, .frames []⟩ })
      ∧ ∀ g : Segment, s.rcv.st ≠ .closed → dec f = some g →
        s.cfg.mss.toNat < g.len.toNat ∨ g.flags ∉ [0x1#4, 0x3#4, 0x4#4, 0x8#4] →
        exec (.rRx f) s
          = .next { s with
              rcvCnt := { s.rcvCnt with segRcvd := s.rcvCnt.segRcvd + 1#32, discard := s.rcvCnt.discard + 1#32 }
              response := some ⟨.ok, .frames []⟩ }

/-- R102: a SYN in `LISTENING` is accepted and answered; DATA and FIN are discarded. -/
def Obligations.SynIsAccepted : Prop :=
  ∀ (f : Bytes) (g : Segment) (s : State), s.rcv.st = .listening → dec f = some g →
    g.len.toNat ≤ s.cfg.mss.toNat →
    (g.flags = 0x4#4 →
        exec (.rRx f) s
          = .next { s.sentByReceiver [enc 0x06#8 0#32 g.seq []] with
              rcv := { st := .established, expected := g.seq, irs := g.seq }
              rcvCnt := { s.rcvCnt with
                segRcvd := s.rcvCnt.segRcvd + 1#32, segSent := s.rcvCnt.segSent + 1#32 } })
      ∧ (g.flags ≠ 0x4#4 →
        exec (.rRx f) s
          = .next { s with
              rcvCnt := { s.rcvCnt with segRcvd := s.rcvCnt.segRcvd + 1#32, discard := s.rcvCnt.discard + 1#32 }
              response := some ⟨.ok, .frames []⟩ })

/-- R103: a DATA segment at the cursor is delivered whole and acknowledged unless the cursor would pass 2^32 - 1; one
before or ahead of the cursor is counted and answered with a duplicate ACK. -/
def Obligations.DataIsDeliveredInOrder : Prop :=
  ∀ (f : Bytes) (g : Segment) (s : State), s.rcv.st = .established → dec f = some g →
    g.len.toNat ≤ s.cfg.mss.toNat → g.flags = 0x1#4 ∨ g.flags = 0x3#4 →
    (g.seq = s.rcv.expected → s.rcv.expected.toNat + g.len.toNat ≤ 2 ^ 32 - 1 →
        let e := BitVec.ofNat 32 (s.rcv.expected.toNat + g.len.toNat)
        exec (.rRx f) s
          = .next { s.sentByReceiver [enc 0x02#8 0#32 e []] with
              sink := s.sink ++ g.payload
              rcv := { s.rcv with expected := e }
              rcvCnt := { s.rcvCnt with
                segRcvd := s.rcvCnt.segRcvd + 1#32, segSent := s.rcvCnt.segSent + 1#32
                bytes := s.rcvCnt.bytes + BitVec.ofNat 32 g.len.toNat } })
      ∧ (g.seq = s.rcv.expected → 2 ^ 32 - 1 < s.rcv.expected.toNat + g.len.toNat →
        exec (.rRx f) s
          = .next { s with
              rcvCnt := { s.rcvCnt with segRcvd := s.rcvCnt.segRcvd + 1#32, discard := s.rcvCnt.discard + 1#32 }
              response := some ⟨.ok, .frames []⟩ })
      ∧ (g.seq.toNat < s.rcv.expected.toNat →
        exec (.rRx f) s
          = .next { s.sentByReceiver [enc 0x02#8 0#32 s.rcv.expected []] with
              rcvCnt := { s.rcvCnt with
                segRcvd := s.rcvCnt.segRcvd + 1#32, segSent := s.rcvCnt.segSent + 1#32
                dup := s.rcvCnt.dup + 1#32 } })
      ∧ (s.rcv.expected.toNat < g.seq.toNat →
        exec (.rRx f) s
          = .next { s.sentByReceiver [enc 0x02#8 0#32 s.rcv.expected []] with
              rcvCnt := { s.rcvCnt with
                segRcvd := s.rcvCnt.segRcvd + 1#32, segSent := s.rcvCnt.segSent + 1#32
                ahead := s.rcvCnt.ahead + 1#32 } })

/-- R104: the accepted SYN repeated is answered again with `RCV_IRS`; another SYN is discarded. -/
def Obligations.RepeatedSynIsAnswered : Prop :=
  ∀ (f : Bytes) (g : Segment) (s : State), s.rcv.st = .established → dec f = some g →
    g.len.toNat ≤ s.cfg.mss.toNat → g.flags = 0x4#4 →
    (g.seq = s.rcv.irs →
        exec (.rRx f) s
          = .next { s.sentByReceiver [enc 0x06#8 0#32 s.rcv.irs []] with
              rcvCnt := { s.rcvCnt with
                segRcvd := s.rcvCnt.segRcvd + 1#32, segSent := s.rcvCnt.segSent + 1#32 } })
      ∧ (g.seq ≠ s.rcv.irs →
        exec (.rRx f) s
          = .next { s with
              rcvCnt := { s.rcvCnt with segRcvd := s.rcvCnt.segRcvd + 1#32, discard := s.rcvCnt.discard + 1#32 }
              response := some ⟨.ok, .frames []⟩ })

/-- R105: a FIN at the cursor takes the receiver to `CLOSING` and is answered; a FIN anywhere else is discarded. -/
def Obligations.FinAtTheCursorIsAccepted : Prop :=
  ∀ (f : Bytes) (g : Segment) (s : State), s.rcv.st = .established → dec f = some g →
    g.len.toNat ≤ s.cfg.mss.toNat → g.flags = 0x8#4 →
    (g.seq = s.rcv.expected →
        exec (.rRx f) s
          = .next { s.sentByReceiver [enc 0x0A#8 0#32 s.rcv.expected []] with
              rcv := { s.rcv with st := .closing }
              rcvCnt := { s.rcvCnt with
                segRcvd := s.rcvCnt.segRcvd + 1#32, segSent := s.rcvCnt.segSent + 1#32 } })
      ∧ (g.seq ≠ s.rcv.expected →
        exec (.rRx f) s
          = .next { s with
              rcvCnt := { s.rcvCnt with segRcvd := s.rcvCnt.segRcvd + 1#32, discard := s.rcvCnt.discard + 1#32 }
              response := some ⟨.ok, .frames []⟩ })

/-- R106: in `CLOSING` every repetition of the FIN is answered, and any other segment is discarded. -/
def Obligations.LingerAnswersTheFin : Prop :=
  ∀ (f : Bytes) (g : Segment) (s : State), s.rcv.st = .closing → dec f = some g →
    g.len.toNat ≤ s.cfg.mss.toNat →
    (g.flags = 0x8#4 → g.seq = s.rcv.expected →
        exec (.rRx f) s
          = .next { s.sentByReceiver [enc 0x0A#8 0#32 s.rcv.expected []] with
              rcvCnt := { s.rcvCnt with
                segRcvd := s.rcvCnt.segRcvd + 1#32, segSent := s.rcvCnt.segSent + 1#32 } })
      ∧ (¬(g.flags = 0x8#4 ∧ g.seq = s.rcv.expected) →
        exec (.rRx f) s
          = .next { s with
              rcvCnt := { s.rcvCnt with segRcvd := s.rcvCnt.segRcvd + 1#32, discard := s.rcvCnt.discard + 1#32 }
              response := some ⟨.ok, .frames []⟩ })

/-- R107: `R.CLOSE` ends the linger and is refused in every other state. -/
def Obligations.CloseEndsTheLinger : Prop :=
  ∀ s : State,
    (s.rcv.st = .closing →
        exec .rClose s = .next { s with rcv := { s.rcv with st := .closed }, response := some ⟨.ok, .none⟩ })
      ∧ (s.rcv.st ≠ .closing → exec .rClose s = .next { s with response := some ⟨.refusedState, .none⟩ })

/-- R100: the transition table of the receiver, complete, from the state after reset on. -/
def Obligations.ReceiverFollowsItsTransitionTable : Prop :=
  State.reset.rcv.st = .listening
    ∧ ∀ (i : Instr) (s t : State), exec i s = .next t → rcvTransition i s t

/-- R110 items 1 to 3: an operation leaves the sink and the cursor alone, or appends the payload of the segment exactly at
the cursor and moves the cursor behind it, or accepts the first SYN. -/
def Obligations.SinkOnlyGrowsAtTheCursor : Prop :=
  ∀ (i : Instr) (s t : State), exec i s = .next t →
    (t.sink = s.sink ∧ t.rcv.expected = s.rcv.expected ∧ t.rcv.irs = s.rcv.irs)
      ∨ (∃ f g, i = .rRx f ∧ dec f = some g ∧ s.rcv.st = .established ∧ g.seq = s.rcv.expected
        ∧ t.sink = s.sink ++ g.payload ∧ t.rcv.expected.toNat = s.rcv.expected.toNat + g.payload.length
        ∧ t.rcv.irs = s.rcv.irs)
      ∨ ∃ f g, i = .rRx f ∧ dec f = some g ∧ s.rcv.st = .listening ∧ g.flags = 0x4#4 ∧ t.sink = s.sink
        ∧ t.rcv.expected = g.seq ∧ t.rcv.irs = g.seq

/-- R110 item 5: where every DATA frame that parses carries the bytes of `src` at its sequence range, the sink stays a
prefix of `src`. -/
def Obligations.SinkStaysAPrefixOfTheSource : Prop :=
  ∀ (s t : State) (f : Bytes) (src : Nat → Byte), s.Coherent → s.SinkMatches → s.SinkHolds src →
    (∀ g, dec f = some g → g.flags = 0x1#4 ∨ g.flags = 0x3#4 → s.rcv.irs.toNat ≤ g.seq.toNat →
      g.payload = (List.range g.len.toNat).map fun k => src (g.seq.toNat - s.rcv.irs.toNat + k)) →
    exec (.rRx f) s = .next t → t.SinkHolds src ∧ s.sink <+: t.sink

/-! ## The whole machine -/

/-- R120: every operation ends with one outcome; an outcome other than `OK` has no results, leaves all else unchanged and
comes only from the operations the table names. -/
def Obligations.NonOkOutcomesChangeNothing : Prop :=
  ∀ (i : Instr) (s t : State), exec i s = .next t →
    ∃ r, t.response = some r
      ∧ (r.outcome ≠ .ok → r.results = .none ∧ t = { s with response := some r } ∧ raisedBy i r.outcome)

/-- R121: no frame, whatever its bytes, and no tick makes an engine answer anything but `OK` with frames. -/
def Obligations.AnyFrameIsAnsweredOk : Prop :=
  ∀ (s : State) (f : Bytes), s.Coherent →
    (∃ t fs, exec (.sRx f) s = .next t ∧ t.response = some ⟨.ok, .frames fs⟩ ∧ t.sndOut = s.sndOut ++ fs)
      ∧ (∃ t fs, exec .sTick s = .next t ∧ t.response = some ⟨.ok, .frames fs⟩ ∧ t.sndOut = s.sndOut ++ fs)
      ∧ ∃ t fs, exec (.rRx f) s = .next t ∧ t.response = some ⟨.ok, .frames fs⟩ ∧ t.rcvOut = s.rcvOut ++ fs

/-- R8, R61, R124, R129: what the operations of each unit can change at most. -/
def Obligations.UnitsChangeOnlyTheirOwnState : Prop :=
  ∀ (i : Instr) (s t : State), exec i s = .next t →
    (isSenderOp i = true →
        t = { s with
          snd := t.snd, sndCnt := t.sndCnt, fwd := { s.fwd with prng := t.fwd.prng }, sndOut := t.sndOut,
          response := t.response })
      ∧ (isReceiverOp i = true →
        t = { s with
          rcv := t.rcv, rcvCnt := t.rcvCnt, rev := { s.rev with prng := t.rev.prng }, rcvOut := t.rcvOut,
          sink := t.sink, response := t.response })
      ∧ (isSenderOp i = false → isReceiverOp i = false →
        t = { s with cfg := t.cfg, fwd := t.fwd, rev := t.rev, response := t.response })

/-- R124 item 2: an operation of the sender and one of the receiver commute; each gives the same response in either
order. -/
def Obligations.EnginesCommute : Prop :=
  ∀ (s t u : State) (i j : Instr), isSenderOp i = true → isReceiverOp j = true → exec i s = .next t →
    exec j s = .next u →
    ∃ v w, exec j t = .next v ∧ exec i u = .next w ∧ v.response = u.response ∧ w.response = t.response
      ∧ SameButResponse v w

/-- R124: a step takes one input of the earliest instant: no tick while a frame for the sender is presented, no frame
before an earlier one for the same engine. Which allowed input it takes is free (log 2). -/
def Obligations.ArbiterTakesAnAllowedInput : Prop :=
  ∀ (s : State) (now : List Input) (rest : List (List Input)), s.inputs = now :: rest → now ≠ [] →
    ∃ k x turn, now[k]? = some x
      ∧ step s
        = perform x { s with
            inputs := if now.eraseIdx k = [] then rest else now.eraseIdx k :: rest
            arbiterTurn := turn }
      ∧ (x.isSTick = true → ∀ y ∈ now, y.isSRx = false)
      ∧ (x.isSRx = true → ∀ y ∈ now.take k, y.isSRx = false)
      ∧ (x.isRRx = true → ∀ y ∈ now.take k, y.isRRx = false)

/-- R124 item 1: of a tick and a frame for the sender presented together, in whichever order they arrived, the frame is
performed first. -/
def Obligations.FrameIsPerformedBeforeTick : Prop :=
  ∀ (s : State) (f : Bytes) (rest : List (List Input)), bytesFit f →
    s.inputs = [.record (encode .sTick), .record (encode (.sRx f))] :: rest
      ∨ s.inputs = [.record (encode (.sRx f)), .record (encode .sTick)] :: rest →
    step s = exec (.sRx f) { s with inputs := [.record (encode .sTick)] :: rest }

/-- R39: the laws of the state hold right after reset. -/
def Obligations.ResetIsCoherent : Prop :=
  State.reset.Coherent ∧ State.reset.RetryBounded ∧ State.reset.SinkMatches

/-- R39 with what it needs: every step keeps the laws of the state, item 6 whole included, with one exception to item 6:
a `REG.WR` that after the end of a run stores a `CFG_MAX_RETRY` below the `SND_RETRY` the run left (log 12). -/
def Obligations.StepKeepsCoherent : Prop :=
  ∀ s t : State, s.Coherent → step s = .next t →
    t.Coherent ∧ (s.RetryBounded → t.RetryBounded ∨ s.LowersRetryBudget t)

/-- 93_implementation_defined.md: nothing in the block faults; a step from a coherent state has a next state (log 7 says
why preparing a new run is left out). -/
def Obligations.CoherentStepsHaveANextState : Prop :=
  ∀ s : State, s.Coherent → s.NoNewRun → ∃ t, step s = .next t ∧ t.NoNewRun

/-- R39 item 8: the sink holds exactly the bytes between `RCV_IRS` and `RCV_EXPECTED`, while only command records are
presented (log 13). -/
def Obligations.StepKeepsTheSinkLength : Prop :=
  ∀ s t : State, s.Coherent → s.OnlyRecords → s.SinkMatches → step s = .next t → t.SinkMatches ∧ t.OnlyRecords

/-- R42 and the model's way of supplying a source (log 1, log 7): only the preparing of a run changes the source, and the
sender then reads the bytes it was given. -/
def Obligations.SourceIsStable : Prop :=
  (∀ s t : State, s.NoNewRun → step s = .next t → t.src = s.src)
    ∧ ∀ (s : State) (bytes : Bytes) (rest : List (List Input)), s.inputs = [.newRun bytes] :: rest →
      s.snd.st = .closed → s.rcv.st = .listening →
      ∃ t, step s = .next t ∧ t.inputs = rest ∧ t.sink = [] ∧ t.snd = s.snd ∧ t.rcv = s.rcv ∧ t.cfg = s.cfg
        ∧ ∀ n, n ≤ bytes.length → t.sourceRange t.cfg.isn.toNat n = bytes.take n

/-- R39 item 6 read without the exception of `StepKeepsCoherent`: it fails, since after a run that ended the host may
write a smaller `CFG_MAX_RETRY` while `SND_RETRY` keeps its value (R92, R37, R116; log 12). -/
def Obligations.RetryBoundOutlivesTheRun : Prop :=
  ∀ s t : State, s.Coherent → s.snd.retry.toNat ≤ s.cfg.maxRetry.toNat → step s = .next t →
    t.snd.retry.toNat ≤ t.cfg.maxRetry.toNat
end

