-- ==== Sys2Proof/Laws/State.lean ====
section
/-! SUPPORT. What each update of the state does to each field: one lemma a field and update, true by `rfl`. -/

namespace Sys2Proof.Machine

/-! ### `s.setSnd x` -/

@[simp] theorem State.setSnd_cfg (s : State) (x : Sender) : (s.setSnd x).cfg = s.cfg := rfl
@[simp] theorem State.setSnd_fwd (s : State) (x : Sender) : (s.setSnd x).fwd = s.fwd := rfl
@[simp] theorem State.setSnd_rev (s : State) (x : Sender) : (s.setSnd x).rev = s.rev := rfl
@[simp] theorem State.setSnd_snd (s : State) (x : Sender) : (s.setSnd x).snd = x := rfl
@[simp] theorem State.setSnd_sndCnt (s : State) (x : Sender) : (s.setSnd x).sndCnt = s.sndCnt := rfl
@[simp] theorem State.setSnd_rcv (s : State) (x : Sender) : (s.setSnd x).rcv = s.rcv := rfl
@[simp] theorem State.setSnd_rcvCnt (s : State) (x : Sender) : (s.setSnd x).rcvCnt = s.rcvCnt := rfl
@[simp] theorem State.setSnd_src (s : State) (x : Sender) : (s.setSnd x).src = s.src := rfl
@[simp] theorem State.setSnd_sink (s : State) (x : Sender) : (s.setSnd x).sink = s.sink := rfl
@[simp] theorem State.setSnd_sndOut (s : State) (x : Sender) : (s.setSnd x).sndOut = s.sndOut := rfl
@[simp] theorem State.setSnd_rcvOut (s : State) (x : Sender) : (s.setSnd x).rcvOut = s.rcvOut := rfl
@[simp] theorem State.setSnd_inputs (s : State) (x : Sender) : (s.setSnd x).inputs = s.inputs := rfl
@[simp] theorem State.setSnd_arbiterTurn (s : State) (x : Sender) : (s.setSnd x).arbiterTurn = s.arbiterTurn := rfl
@[simp] theorem State.setSnd_response (s : State) (x : Sender) : (s.setSnd x).response = s.response := rfl

/-! ### `s.setRcv x` -/

@[simp] theorem State.setRcv_cfg (s : State) (x : Receiver) : (s.setRcv x).cfg = s.cfg := rfl
@[simp] theorem State.setRcv_fwd (s : State) (x : Receiver) : (s.setRcv x).fwd = s.fwd := rfl
@[simp] theorem State.setRcv_rev (s : State) (x : Receiver) : (s.setRcv x).rev = s.rev := rfl
@[simp] theorem State.setRcv_snd (s : State) (x : Receiver) : (s.setRcv x).snd = s.snd := rfl
@[simp] theorem State.setRcv_sndCnt (s : State) (x : Receiver) : (s.setRcv x).sndCnt = s.sndCnt := rfl
@[simp] theorem State.setRcv_rcv (s : State) (x : Receiver) : (s.setRcv x).rcv = x := rfl
@[simp] theorem State.setRcv_rcvCnt (s : State) (x : Receiver) : (s.setRcv x).rcvCnt = s.rcvCnt := rfl
@[simp] theorem State.setRcv_src (s : State) (x : Receiver) : (s.setRcv x).src = s.src := rfl
@[simp] theorem State.setRcv_sink (s : State) (x : Receiver) : (s.setRcv x).sink = s.sink := rfl
@[simp] theorem State.setRcv_sndOut (s : State) (x : Receiver) : (s.setRcv x).sndOut = s.sndOut := rfl
@[simp] theorem State.setRcv_rcvOut (s : State) (x : Receiver) : (s.setRcv x).rcvOut = s.rcvOut := rfl
@[simp] theorem State.setRcv_inputs (s : State) (x : Receiver) : (s.setRcv x).inputs = s.inputs := rfl
@[simp] theorem State.setRcv_arbiterTurn (s : State) (x : Receiver) : (s.setRcv x).arbiterTurn = s.arbiterTurn := rfl
@[simp] theorem State.setRcv_response (s : State) (x : Receiver) : (s.setRcv x).response = s.response := rfl

/-! ### `s.answer r` -/

@[simp] theorem State.answer_cfg (s : State) (r : Results) : (s.answer r).cfg = s.cfg := rfl
@[simp] theorem State.answer_fwd (s : State) (r : Results) : (s.answer r).fwd = s.fwd := rfl
@[simp] theorem State.answer_rev (s : State) (r : Results) : (s.answer r).rev = s.rev := rfl
@[simp] theorem State.answer_snd (s : State) (r : Results) : (s.answer r).snd = s.snd := rfl
@[simp] theorem State.answer_sndCnt (s : State) (r : Results) : (s.answer r).sndCnt = s.sndCnt := rfl
@[simp] theorem State.answer_rcv (s : State) (r : Results) : (s.answer r).rcv = s.rcv := rfl
@[simp] theorem State.answer_rcvCnt (s : State) (r : Results) : (s.answer r).rcvCnt = s.rcvCnt := rfl
@[simp] theorem State.answer_src (s : State) (r : Results) : (s.answer r).src = s.src := rfl
@[simp] theorem State.answer_sink (s : State) (r : Results) : (s.answer r).sink = s.sink := rfl
@[simp] theorem State.answer_sndOut (s : State) (r : Results) : (s.answer r).sndOut = s.sndOut := rfl
@[simp] theorem State.answer_rcvOut (s : State) (r : Results) : (s.answer r).rcvOut = s.rcvOut := rfl
@[simp] theorem State.answer_inputs (s : State) (r : Results) : (s.answer r).inputs = s.inputs := rfl
@[simp] theorem State.answer_arbiterTurn (s : State) (r : Results) : (s.answer r).arbiterTurn = s.arbiterTurn := rfl
@[simp] theorem State.answer_response (s : State) (r : Results) : (s.answer r).response = some ⟨.ok, r⟩ := rfl

/-! ### `s.setChan .fwd c` -/

@[simp] theorem State.setChan_fwd_cfg (s : State) (c : InjChan) : (s.setChan .fwd c).cfg = s.cfg := rfl
@[simp] theorem State.setChan_fwd_fwd (s : State) (c : InjChan) : (s.setChan .fwd c).fwd = c := rfl
@[simp] theorem State.setChan_fwd_rev (s : State) (c : InjChan) : (s.setChan .fwd c).rev = s.rev := rfl
@[simp] theorem State.setChan_fwd_snd (s : State) (c : InjChan) : (s.setChan .fwd c).snd = s.snd := rfl
@[simp] theorem State.setChan_fwd_sndCnt (s : State) (c : InjChan) : (s.setChan .fwd c).sndCnt = s.sndCnt := rfl
@[simp] theorem State.setChan_fwd_rcv (s : State) (c : InjChan) : (s.setChan .fwd c).rcv = s.rcv := rfl
@[simp] theorem State.setChan_fwd_rcvCnt (s : State) (c : InjChan) : (s.setChan .fwd c).rcvCnt = s.rcvCnt := rfl
@[simp] theorem State.setChan_fwd_src (s : State) (c : InjChan) : (s.setChan .fwd c).src = s.src := rfl
@[simp] theorem State.setChan_fwd_sink (s : State) (c : InjChan) : (s.setChan .fwd c).sink = s.sink := rfl
@[simp] theorem State.setChan_fwd_sndOut (s : State) (c : InjChan) : (s.setChan .fwd c).sndOut = s.sndOut := rfl
@[simp] theorem State.setChan_fwd_rcvOut (s : State) (c : InjChan) : (s.setChan .fwd c).rcvOut = s.rcvOut := rfl
@[simp] theorem State.setChan_fwd_inputs (s : State) (c : InjChan) : (s.setChan .fwd c).inputs = s.inputs := rfl
@[simp] theorem State.setChan_fwd_arbiterTurn (s : State) (c : InjChan) : (s.setChan .fwd c).arbiterTurn = s.arbiterTurn := rfl
@[simp] theorem State.setChan_fwd_response (s : State) (c : InjChan) : (s.setChan .fwd c).response = s.response := rfl

/-! ### `s.setChan .rev c` -/

@[simp] theorem State.setChan_rev_cfg (s : State) (c : InjChan) : (s.setChan .rev c).cfg = s.cfg := rfl
@[simp] theorem State.setChan_rev_fwd (s : State) (c : InjChan) : (s.setChan .rev c).fwd = s.fwd := rfl
@[simp] theorem State.setChan_rev_rev (s : State) (c : InjChan) : (s.setChan .rev c).rev = c := rfl
@[simp] theorem State.setChan_rev_snd (s : State) (c : InjChan) : (s.setChan .rev c).snd = s.snd := rfl
@[simp] theorem State.setChan_rev_sndCnt (s : State) (c : InjChan) : (s.setChan .rev c).sndCnt = s.sndCnt := rfl
@[simp] theorem State.setChan_rev_rcv (s : State) (c : InjChan) : (s.setChan .rev c).rcv = s.rcv := rfl
@[simp] theorem State.setChan_rev_rcvCnt (s : State) (c : InjChan) : (s.setChan .rev c).rcvCnt = s.rcvCnt := rfl
@[simp] theorem State.setChan_rev_src (s : State) (c : InjChan) : (s.setChan .rev c).src = s.src := rfl
@[simp] theorem State.setChan_rev_sink (s : State) (c : InjChan) : (s.setChan .rev c).sink = s.sink := rfl
@[simp] theorem State.setChan_rev_sndOut (s : State) (c : InjChan) : (s.setChan .rev c).sndOut = s.sndOut := rfl
@[simp] theorem State.setChan_rev_rcvOut (s : State) (c : InjChan) : (s.setChan .rev c).rcvOut = s.rcvOut := rfl
@[simp] theorem State.setChan_rev_inputs (s : State) (c : InjChan) : (s.setChan .rev c).inputs = s.inputs := rfl
@[simp] theorem State.setChan_rev_arbiterTurn (s : State) (c : InjChan) : (s.setChan .rev c).arbiterTurn = s.arbiterTurn := rfl
@[simp] theorem State.setChan_rev_response (s : State) (c : InjChan) : (s.setChan .rev c).response = s.response := rfl

/-! ### `s.countS c n` -/

@[simp] theorem State.countS_cfg (s : State) (c : SndCtr) (n : Nat) : (s.countS c n).cfg = s.cfg := rfl
@[simp] theorem State.countS_fwd (s : State) (c : SndCtr) (n : Nat) : (s.countS c n).fwd = s.fwd := rfl
@[simp] theorem State.countS_rev (s : State) (c : SndCtr) (n : Nat) : (s.countS c n).rev = s.rev := rfl
@[simp] theorem State.countS_snd (s : State) (c : SndCtr) (n : Nat) : (s.countS c n).snd = s.snd := rfl
@[simp] theorem State.countS_sndCnt (s : State) (c : SndCtr) (n : Nat) : (s.countS c n).sndCnt = s.sndCnt.add n c := rfl
@[simp] theorem State.countS_rcv (s : State) (c : SndCtr) (n : Nat) : (s.countS c n).rcv = s.rcv := rfl
@[simp] theorem State.countS_rcvCnt (s : State) (c : SndCtr) (n : Nat) : (s.countS c n).rcvCnt = s.rcvCnt := rfl
@[simp] theorem State.countS_src (s : State) (c : SndCtr) (n : Nat) : (s.countS c n).src = s.src := rfl
@[simp] theorem State.countS_sink (s : State) (c : SndCtr) (n : Nat) : (s.countS c n).sink = s.sink := rfl
@[simp] theorem State.countS_sndOut (s : State) (c : SndCtr) (n : Nat) : (s.countS c n).sndOut = s.sndOut := rfl
@[simp] theorem State.countS_rcvOut (s : State) (c : SndCtr) (n : Nat) : (s.countS c n).rcvOut = s.rcvOut := rfl
@[simp] theorem State.countS_inputs (s : State) (c : SndCtr) (n : Nat) : (s.countS c n).inputs = s.inputs := rfl
@[simp] theorem State.countS_arbiterTurn (s : State) (c : SndCtr) (n : Nat) : (s.countS c n).arbiterTurn = s.arbiterTurn := rfl
@[simp] theorem State.countS_response (s : State) (c : SndCtr) (n : Nat) : (s.countS c n).response = s.response := rfl

/-! ### `s.countR c n` -/

@[simp] theorem State.countR_cfg (s : State) (c : RcvCtr) (n : Nat) : (s.countR c n).cfg = s.cfg := rfl
@[simp] theorem State.countR_fwd (s : State) (c : RcvCtr) (n : Nat) : (s.countR c n).fwd = s.fwd := rfl
@[simp] theorem State.countR_rev (s : State) (c : RcvCtr) (n : Nat) : (s.countR c n).rev = s.rev := rfl
@[simp] theorem State.countR_snd (s : State) (c : RcvCtr) (n : Nat) : (s.countR c n).snd = s.snd := rfl
@[simp] theorem State.countR_sndCnt (s : State) (c : RcvCtr) (n : Nat) : (s.countR c n).sndCnt = s.sndCnt := rfl
@[simp] theorem State.countR_rcv (s : State) (c : RcvCtr) (n : Nat) : (s.countR c n).rcv = s.rcv := rfl
@[simp] theorem State.countR_rcvCnt (s : State) (c : RcvCtr) (n : Nat) : (s.countR c n).rcvCnt = s.rcvCnt.add n c := rfl
@[simp] theorem State.countR_src (s : State) (c : RcvCtr) (n : Nat) : (s.countR c n).src = s.src := rfl
@[simp] theorem State.countR_sink (s : State) (c : RcvCtr) (n : Nat) : (s.countR c n).sink = s.sink := rfl
@[simp] theorem State.countR_sndOut (s : State) (c : RcvCtr) (n : Nat) : (s.countR c n).sndOut = s.sndOut := rfl
@[simp] theorem State.countR_rcvOut (s : State) (c : RcvCtr) (n : Nat) : (s.countR c n).rcvOut = s.rcvOut := rfl
@[simp] theorem State.countR_inputs (s : State) (c : RcvCtr) (n : Nat) : (s.countR c n).inputs = s.inputs := rfl
@[simp] theorem State.countR_arbiterTurn (s : State) (c : RcvCtr) (n : Nat) : (s.countR c n).arbiterTurn = s.arbiterTurn := rfl
@[simp] theorem State.countR_response (s : State) (c : RcvCtr) (n : Nat) : (s.countR c n).response = s.response := rfl

/-! ### `s.appendSink v` -/

@[simp] theorem State.appendSink_cfg (s : State) (v : Bytes) : (s.appendSink v).cfg = s.cfg := rfl
@[simp] theorem State.appendSink_fwd (s : State) (v : Bytes) : (s.appendSink v).fwd = s.fwd := rfl
@[simp] theorem State.appendSink_rev (s : State) (v : Bytes) : (s.appendSink v).rev = s.rev := rfl
@[simp] theorem State.appendSink_snd (s : State) (v : Bytes) : (s.appendSink v).snd = s.snd := rfl
@[simp] theorem State.appendSink_sndCnt (s : State) (v : Bytes) : (s.appendSink v).sndCnt = s.sndCnt := rfl
@[simp] theorem State.appendSink_rcv (s : State) (v : Bytes) : (s.appendSink v).rcv = s.rcv := rfl
@[simp] theorem State.appendSink_rcvCnt (s : State) (v : Bytes) : (s.appendSink v).rcvCnt = s.rcvCnt := rfl
@[simp] theorem State.appendSink_src (s : State) (v : Bytes) : (s.appendSink v).src = s.src := rfl
@[simp] theorem State.appendSink_sink (s : State) (v : Bytes) : (s.appendSink v).sink = s.sink ++ v := rfl
@[simp] theorem State.appendSink_sndOut (s : State) (v : Bytes) : (s.appendSink v).sndOut = s.sndOut := rfl
@[simp] theorem State.appendSink_rcvOut (s : State) (v : Bytes) : (s.appendSink v).rcvOut = s.rcvOut := rfl
@[simp] theorem State.appendSink_inputs (s : State) (v : Bytes) : (s.appendSink v).inputs = s.inputs := rfl
@[simp] theorem State.appendSink_arbiterTurn (s : State) (v : Bytes) : (s.appendSink v).arbiterTurn = s.arbiterTurn := rfl
@[simp] theorem State.appendSink_response (s : State) (v : Bytes) : (s.appendSink v).response = s.response := rfl

/-! ### `s.emitS f` -/

@[simp] theorem State.emitS_cfg (s : State) (f : Bytes) : (s.emitS f).cfg = s.cfg := rfl
@[simp] theorem State.emitS_fwd (s : State) (f : Bytes) : (s.emitS f).fwd = (s.fwd.send f).2.2 := rfl
@[simp] theorem State.emitS_rev (s : State) (f : Bytes) : (s.emitS f).rev = s.rev := rfl
@[simp] theorem State.emitS_snd (s : State) (f : Bytes) : (s.emitS f).snd = s.snd := rfl
@[simp] theorem State.emitS_sndCnt (s : State) (f : Bytes) : (s.emitS f).sndCnt = s.sndCnt := rfl
@[simp] theorem State.emitS_rcv (s : State) (f : Bytes) : (s.emitS f).rcv = s.rcv := rfl
@[simp] theorem State.emitS_rcvCnt (s : State) (f : Bytes) : (s.emitS f).rcvCnt = s.rcvCnt := rfl
@[simp] theorem State.emitS_src (s : State) (f : Bytes) : (s.emitS f).src = s.src := rfl
@[simp] theorem State.emitS_sink (s : State) (f : Bytes) : (s.emitS f).sink = s.sink := rfl
@[simp] theorem State.emitS_sndOut (s : State) (f : Bytes) : (s.emitS f).sndOut = s.sndOut ++ (s.fwd.send f).2.1.toList := rfl
@[simp] theorem State.emitS_rcvOut (s : State) (f : Bytes) : (s.emitS f).rcvOut = s.rcvOut := rfl
@[simp] theorem State.emitS_inputs (s : State) (f : Bytes) : (s.emitS f).inputs = s.inputs := rfl
@[simp] theorem State.emitS_arbiterTurn (s : State) (f : Bytes) : (s.emitS f).arbiterTurn = s.arbiterTurn := rfl
@[simp] theorem State.emitS_response (s : State) (f : Bytes) : (s.emitS f).response = s.response := rfl

/-! ### `s.emitR f` -/

@[simp] theorem State.emitR_cfg (s : State) (f : Bytes) : (s.emitR f).cfg = s.cfg := rfl
@[simp] theorem State.emitR_fwd (s : State) (f : Bytes) : (s.emitR f).fwd = s.fwd := rfl
@[simp] theorem State.emitR_rev (s : State) (f : Bytes) : (s.emitR f).rev = (s.rev.send f).2.2 := rfl
@[simp] theorem State.emitR_snd (s : State) (f : Bytes) : (s.emitR f).snd = s.snd := rfl
@[simp] theorem State.emitR_sndCnt (s : State) (f : Bytes) : (s.emitR f).sndCnt = s.sndCnt := rfl
@[simp] theorem State.emitR_rcv (s : State) (f : Bytes) : (s.emitR f).rcv = s.rcv := rfl
@[simp] theorem State.emitR_rcvCnt (s : State) (f : Bytes) : (s.emitR f).rcvCnt = s.rcvCnt := rfl
@[simp] theorem State.emitR_src (s : State) (f : Bytes) : (s.emitR f).src = s.src := rfl
@[simp] theorem State.emitR_sink (s : State) (f : Bytes) : (s.emitR f).sink = s.sink := rfl
@[simp] theorem State.emitR_sndOut (s : State) (f : Bytes) : (s.emitR f).sndOut = s.sndOut := rfl
@[simp] theorem State.emitR_rcvOut (s : State) (f : Bytes) : (s.emitR f).rcvOut = s.rcvOut ++ (s.rev.send f).2.1.toList := rfl
@[simp] theorem State.emitR_inputs (s : State) (f : Bytes) : (s.emitR f).inputs = s.inputs := rfl
@[simp] theorem State.emitR_arbiterTurn (s : State) (f : Bytes) : (s.emitR f).arbiterTurn = s.arbiterTurn := rfl
@[simp] theorem State.emitR_response (s : State) (f : Bytes) : (s.emitR f).response = s.response := rfl

/-! ### `s.sendControl k q` -/

@[simp] theorem State.sendControl_cfg (s : State) (k : Byte) (q : Word) : (s.sendControl k q).cfg = s.cfg := rfl
@[simp] theorem State.sendControl_fwd (s : State) (k : Byte) (q : Word) : (s.sendControl k q).fwd = (s.fwd.send (enc k q 0#32 [])).2.2 := rfl
@[simp] theorem State.sendControl_rev (s : State) (k : Byte) (q : Word) : (s.sendControl k q).rev = s.rev := rfl
@[simp] theorem State.sendControl_snd (s : State) (k : Byte) (q : Word) : (s.sendControl k q).snd = s.snd := rfl
@[simp] theorem State.sendControl_sndCnt (s : State) (k : Byte) (q : Word) : (s.sendControl k q).sndCnt = s.sndCnt.add 1 .segSent := rfl
@[simp] theorem State.sendControl_rcv (s : State) (k : Byte) (q : Word) : (s.sendControl k q).rcv = s.rcv := rfl
@[simp] theorem State.sendControl_rcvCnt (s : State) (k : Byte) (q : Word) : (s.sendControl k q).rcvCnt = s.rcvCnt := rfl
@[simp] theorem State.sendControl_src (s : State) (k : Byte) (q : Word) : (s.sendControl k q).src = s.src := rfl
@[simp] theorem State.sendControl_sink (s : State) (k : Byte) (q : Word) : (s.sendControl k q).sink = s.sink := rfl
@[simp] theorem State.sendControl_sndOut (s : State) (k : Byte) (q : Word) : (s.sendControl k q).sndOut = s.sndOut ++ (s.fwd.send (enc k q 0#32 [])).2.1.toList := rfl
@[simp] theorem State.sendControl_rcvOut (s : State) (k : Byte) (q : Word) : (s.sendControl k q).rcvOut = s.rcvOut := rfl
@[simp] theorem State.sendControl_inputs (s : State) (k : Byte) (q : Word) : (s.sendControl k q).inputs = s.inputs := rfl
@[simp] theorem State.sendControl_arbiterTurn (s : State) (k : Byte) (q : Word) : (s.sendControl k q).arbiterTurn = s.arbiterTurn := rfl
@[simp] theorem State.sendControl_response (s : State) (k : Byte) (q : Word) : (s.sendControl k q).response = s.response := rfl

/-! ### `s.sendReply k a` -/

@[simp] theorem State.sendReply_cfg (s : State) (k : Byte) (a : Word) : (s.sendReply k a).cfg = s.cfg := rfl
@[simp] theorem State.sendReply_fwd (s : State) (k : Byte) (a : Word) : (s.sendReply k a).fwd = s.fwd := rfl
@[simp] theorem State.sendReply_rev (s : State) (k : Byte) (a : Word) : (s.sendReply k a).rev = (s.rev.send (enc k 0#32 a [])).2.2 := rfl
@[simp] theorem State.sendReply_snd (s : State) (k : Byte) (a : Word) : (s.sendReply k a).snd = s.snd := rfl
@[simp] theorem State.sendReply_sndCnt (s : State) (k : Byte) (a : Word) : (s.sendReply k a).sndCnt = s.sndCnt := rfl
@[simp] theorem State.sendReply_rcv (s : State) (k : Byte) (a : Word) : (s.sendReply k a).rcv = s.rcv := rfl
@[simp] theorem State.sendReply_rcvCnt (s : State) (k : Byte) (a : Word) : (s.sendReply k a).rcvCnt = s.rcvCnt.add 1 .segSent := rfl
@[simp] theorem State.sendReply_src (s : State) (k : Byte) (a : Word) : (s.sendReply k a).src = s.src := rfl
@[simp] theorem State.sendReply_sink (s : State) (k : Byte) (a : Word) : (s.sendReply k a).sink = s.sink := rfl
@[simp] theorem State.sendReply_sndOut (s : State) (k : Byte) (a : Word) : (s.sendReply k a).sndOut = s.sndOut := rfl
@[simp] theorem State.sendReply_rcvOut (s : State) (k : Byte) (a : Word) : (s.sendReply k a).rcvOut = s.rcvOut ++ (s.rev.send (enc k 0#32 a [])).2.1.toList := rfl
@[simp] theorem State.sendReply_inputs (s : State) (k : Byte) (a : Word) : (s.sendReply k a).inputs = s.inputs := rfl
@[simp] theorem State.sendReply_arbiterTurn (s : State) (k : Byte) (a : Word) : (s.sendReply k a).arbiterTurn = s.arbiterTurn := rfl
@[simp] theorem State.sendReply_response (s : State) (k : Byte) (a : Word) : (s.sendReply k a).response = s.response := rfl

/-! ### `s.arm` -/

@[simp] theorem State.arm_cfg (s : State) : (s.arm).cfg = s.cfg := rfl
@[simp] theorem State.arm_fwd (s : State) : (s.arm).fwd = s.fwd := rfl
@[simp] theorem State.arm_rev (s : State) : (s.arm).rev = s.rev := rfl
@[simp] theorem State.arm_snd (s : State) : (s.arm).snd = { s.snd with armed := true, tmrCnt := s.cfg.rtoTicks } := rfl
@[simp] theorem State.arm_sndCnt (s : State) : (s.arm).sndCnt = s.sndCnt := rfl
@[simp] theorem State.arm_rcv (s : State) : (s.arm).rcv = s.rcv := rfl
@[simp] theorem State.arm_rcvCnt (s : State) : (s.arm).rcvCnt = s.rcvCnt := rfl
@[simp] theorem State.arm_src (s : State) : (s.arm).src = s.src := rfl
@[simp] theorem State.arm_sink (s : State) : (s.arm).sink = s.sink := rfl
@[simp] theorem State.arm_sndOut (s : State) : (s.arm).sndOut = s.sndOut := rfl
@[simp] theorem State.arm_rcvOut (s : State) : (s.arm).rcvOut = s.rcvOut := rfl
@[simp] theorem State.arm_inputs (s : State) : (s.arm).inputs = s.inputs := rfl
@[simp] theorem State.arm_arbiterTurn (s : State) : (s.arm).arbiterTurn = s.arbiterTurn := rfl
@[simp] theorem State.arm_response (s : State) : (s.arm).response = s.response := rfl

/-! ### `s.disarm` -/

@[simp] theorem State.disarm_cfg (s : State) : (s.disarm).cfg = s.cfg := rfl
@[simp] theorem State.disarm_fwd (s : State) : (s.disarm).fwd = s.fwd := rfl
@[simp] theorem State.disarm_rev (s : State) : (s.disarm).rev = s.rev := rfl
@[simp] theorem State.disarm_snd (s : State) : (s.disarm).snd = { s.snd with armed := false, tmrCnt := 0#32 } := rfl
@[simp] theorem State.disarm_sndCnt (s : State) : (s.disarm).sndCnt = s.sndCnt := rfl
@[simp] theorem State.disarm_rcv (s : State) : (s.disarm).rcv = s.rcv := rfl
@[simp] theorem State.disarm_rcvCnt (s : State) : (s.disarm).rcvCnt = s.rcvCnt := rfl
@[simp] theorem State.disarm_src (s : State) : (s.disarm).src = s.src := rfl
@[simp] theorem State.disarm_sink (s : State) : (s.disarm).sink = s.sink := rfl
@[simp] theorem State.disarm_sndOut (s : State) : (s.disarm).sndOut = s.sndOut := rfl
@[simp] theorem State.disarm_rcvOut (s : State) : (s.disarm).rcvOut = s.rcvOut := rfl
@[simp] theorem State.disarm_inputs (s : State) : (s.disarm).inputs = s.inputs := rfl
@[simp] theorem State.disarm_arbiterTurn (s : State) : (s.disarm).arbiterTurn = s.arbiterTurn := rfl
@[simp] theorem State.disarm_response (s : State) : (s.disarm).response = s.response := rfl

/-! ### `s.failRun` -/

@[simp] theorem State.failRun_cfg (s : State) : (s.failRun).cfg = s.cfg := rfl
@[simp] theorem State.failRun_fwd (s : State) : (s.failRun).fwd = s.fwd := rfl
@[simp] theorem State.failRun_rev (s : State) : (s.failRun).rev = s.rev := rfl
@[simp] theorem State.failRun_snd (s : State) : (s.failRun).snd = { s.snd with st := .closed, fail := true, armed := false, tmrCnt := 0#32 } := rfl
@[simp] theorem State.failRun_sndCnt (s : State) : (s.failRun).sndCnt = s.sndCnt := rfl
@[simp] theorem State.failRun_rcv (s : State) : (s.failRun).rcv = s.rcv := rfl
@[simp] theorem State.failRun_rcvCnt (s : State) : (s.failRun).rcvCnt = s.rcvCnt := rfl
@[simp] theorem State.failRun_src (s : State) : (s.failRun).src = s.src := rfl
@[simp] theorem State.failRun_sink (s : State) : (s.failRun).sink = s.sink := rfl
@[simp] theorem State.failRun_sndOut (s : State) : (s.failRun).sndOut = s.sndOut := rfl
@[simp] theorem State.failRun_rcvOut (s : State) : (s.failRun).rcvOut = s.rcvOut := rfl
@[simp] theorem State.failRun_inputs (s : State) : (s.failRun).inputs = s.inputs := rfl
@[simp] theorem State.failRun_arbiterTurn (s : State) : (s.failRun).arbiterTurn = s.arbiterTurn := rfl
@[simp] theorem State.failRun_response (s : State) : (s.failRun).response = s.response := rfl

/-! ### `s.present r` -/

@[simp] theorem State.present_cfg (s : State) (r : Bytes) : (s.present r).cfg = s.cfg := rfl
@[simp] theorem State.present_fwd (s : State) (r : Bytes) : (s.present r).fwd = s.fwd := rfl
@[simp] theorem State.present_rev (s : State) (r : Bytes) : (s.present r).rev = s.rev := rfl
@[simp] theorem State.present_snd (s : State) (r : Bytes) : (s.present r).snd = s.snd := rfl
@[simp] theorem State.present_sndCnt (s : State) (r : Bytes) : (s.present r).sndCnt = s.sndCnt := rfl
@[simp] theorem State.present_rcv (s : State) (r : Bytes) : (s.present r).rcv = s.rcv := rfl
@[simp] theorem State.present_rcvCnt (s : State) (r : Bytes) : (s.present r).rcvCnt = s.rcvCnt := rfl
@[simp] theorem State.present_src (s : State) (r : Bytes) : (s.present r).src = s.src := rfl
@[simp] theorem State.present_sink (s : State) (r : Bytes) : (s.present r).sink = s.sink := rfl
@[simp] theorem State.present_sndOut (s : State) (r : Bytes) : (s.present r).sndOut = s.sndOut := rfl
@[simp] theorem State.present_rcvOut (s : State) (r : Bytes) : (s.present r).rcvOut = s.rcvOut := rfl
@[simp] theorem State.present_inputs (s : State) (r : Bytes) : (s.present r).inputs = [.record r] :: s.inputs := rfl
@[simp] theorem State.present_arbiterTurn (s : State) (r : Bytes) : (s.present r).arbiterTurn = s.arbiterTurn := rfl
@[simp] theorem State.present_response (s : State) (r : Bytes) : (s.present r).response = s.response := rfl

/-! ### `s.take now rest` -/

@[simp] theorem State.take_cfg (s : State) (now : List Input) (rest : List (List Input)) : (s.take now rest).cfg = s.cfg := rfl
@[simp] theorem State.take_fwd (s : State) (now : List Input) (rest : List (List Input)) : (s.take now rest).fwd = s.fwd := rfl
@[simp] theorem State.take_rev (s : State) (now : List Input) (rest : List (List Input)) : (s.take now rest).rev = s.rev := rfl
@[simp] theorem State.take_snd (s : State) (now : List Input) (rest : List (List Input)) : (s.take now rest).snd = s.snd := rfl
@[simp] theorem State.take_sndCnt (s : State) (now : List Input) (rest : List (List Input)) : (s.take now rest).sndCnt = s.sndCnt := rfl
@[simp] theorem State.take_rcv (s : State) (now : List Input) (rest : List (List Input)) : (s.take now rest).rcv = s.rcv := rfl
@[simp] theorem State.take_rcvCnt (s : State) (now : List Input) (rest : List (List Input)) : (s.take now rest).rcvCnt = s.rcvCnt := rfl
@[simp] theorem State.take_src (s : State) (now : List Input) (rest : List (List Input)) : (s.take now rest).src = s.src := rfl
@[simp] theorem State.take_sink (s : State) (now : List Input) (rest : List (List Input)) : (s.take now rest).sink = s.sink := rfl
@[simp] theorem State.take_sndOut (s : State) (now : List Input) (rest : List (List Input)) : (s.take now rest).sndOut = s.sndOut := rfl
@[simp] theorem State.take_rcvOut (s : State) (now : List Input) (rest : List (List Input)) : (s.take now rest).rcvOut = s.rcvOut := rfl
@[simp] theorem State.take_inputs (s : State) (now : List Input) (rest : List (List Input)) : (s.take now rest).inputs = remaining now (pick now s.arbiterTurn).1 rest := rfl
@[simp] theorem State.take_arbiterTurn (s : State) (now : List Input) (rest : List (List Input)) : (s.take now rest).arbiterTurn = (pick now s.arbiterTurn).2 := rfl
@[simp] theorem State.take_response (s : State) (now : List Input) (rest : List (List Input)) : (s.take now rest).response = s.response := rfl

/-! ### `s.applyReset` -/

@[simp] theorem State.applyReset_cfg (s : State) : s.applyReset.cfg = .reset := rfl
@[simp] theorem State.applyReset_fwd (s : State) : s.applyReset.fwd = .reset := rfl
@[simp] theorem State.applyReset_rev (s : State) : s.applyReset.rev = .reset := rfl
@[simp] theorem State.applyReset_snd (s : State) : s.applyReset.snd = .reset := rfl
@[simp] theorem State.applyReset_sndCnt (s : State) : s.applyReset.sndCnt = .reset := rfl
@[simp] theorem State.applyReset_rcv (s : State) : s.applyReset.rcv = .reset := rfl
@[simp] theorem State.applyReset_rcvCnt (s : State) : s.applyReset.rcvCnt = .reset := rfl
@[simp] theorem State.applyReset_src (s : State) : s.applyReset.src = s.src := rfl
@[simp] theorem State.applyReset_sink (s : State) : s.applyReset.sink = s.sink := rfl
@[simp] theorem State.applyReset_sndOut (s : State) : s.applyReset.sndOut = s.sndOut := rfl
@[simp] theorem State.applyReset_rcvOut (s : State) : s.applyReset.rcvOut = s.rcvOut := rfl
@[simp] theorem State.applyReset_inputs (s : State) : s.applyReset.inputs = s.inputs := rfl
@[simp] theorem State.applyReset_arbiterTurn (s : State) : s.applyReset.arbiterTurn = s.arbiterTurn := rfl
@[simp] theorem State.applyReset_response (s : State) : s.applyReset.response = none := rfl

/-! ### `SndCounters.add` and `RcvCounters.add` -/

@[simp] theorem SndCounters.get_add_self (k : SndCounters) (n : Nat) (c : SndCtr) :
    (k.add n c).get c = k.get c + BitVec.ofNat 32 n := by cases c <;> rfl

theorem SndCounters.get_add_of_ne (k : SndCounters) (n : Nat) {c d : SndCtr} (h : d ≠ c) :
    (k.add n c).get d = k.get d := by cases c <;> cases d <;> first | rfl | exact absurd rfl h

@[simp] theorem RcvCounters.get_add_self (k : RcvCounters) (n : Nat) (c : RcvCtr) :
    (k.add n c).get c = k.get c + BitVec.ofNat 32 n := by cases c <;> rfl

theorem RcvCounters.get_add_of_ne (k : RcvCounters) (n : Nat) {c d : RcvCtr} (h : d ≠ c) :
    (k.add n c).get d = k.get d := by cases c <;> cases d <;> first | rfl | exact absurd rfl h

end Sys2Proof.Machine
end

