-- ==== Sys2Proof/Laws/Arbiter.lean ====
section
/-! SUPPORT. The arbiter: which inputs it can pick, and what performing one input comes down to. -/

namespace Sys2Proof.Machine

theorem mem_eligibles {now : List Input} {k : Nat} :
    k ∈ eligibles now ↔ k < now.length ∧ eligible now k = true := by
  simp [eligibles]

/-- An input at an instant has a record of at most one kind, so a frame is no tick. -/
theorem Input.not_tick_of_isSRx {x : Input} (h : x.isSRx = true) : x.isSTick = false := by
  unfold Input.isSRx at h
  unfold Input.isSTick
  split at h <;> simp_all

/-- While anything is presented, something may be performed. -/
theorem eligibles_ne_nil {now : List Input} (h : now ≠ []) : eligibles now ≠ [] := by
  intro hnil
  have none_ok : ∀ k, k < now.length → eligible now k = false := by
    intro k hk
    by_contra hc
    have : k ∈ eligibles now := mem_eligibles.mpr ⟨hk, by simpa using hc⟩
    simp [hnil] at this
  by_cases hrx : now.any Input.isSRx = true
  · have hlt := List.findIdx_lt_length_of_exists (List.any_eq_true.mp hrx)
    have hx := List.findIdx_getElem (p := Input.isSRx) (w := hlt)
    have := none_ok _ hlt
    unfold eligible at this
    rw [List.getElem?_eq_getElem hlt] at this
    simp only [Input.not_tick_of_isSRx hx, hx, if_true, Bool.false_eq_true, if_false, Bool.not_eq_false'] at this
    obtain ⟨y, hy, hyx⟩ := List.any_eq_true.mp this
    obtain ⟨i, hi, rfl⟩ := List.getElem_of_mem hy
    simp only [List.length_take] at hi
    have := List.not_of_lt_findIdx (p := Input.isSRx) (xs := now) (i := i) (by omega)
    simp [List.getElem_take] at hyx
    simp [hyx] at this
  · have h0 : 0 < now.length := List.length_pos_iff.mpr h
    have := none_ok 0 h0
    unfold eligible at this
    rw [List.getElem?_eq_getElem h0] at this
    simp only [List.take_zero, List.any_nil, Bool.not_false] at this
    simp [hrx] at this

/-- The index picked is one that may be performed next (R124). -/
theorem pick_mem_eligibles {now : List Input} (h : now ≠ []) (turn : Nat) : (pick now turn).1 ∈ eligibles now := by
  have hn := eligibles_ne_nil h
  unfold pick
  split
  · next he => exact absurd he hn
  · next k he => rw [he]; simp
  · next k ks _ he =>
    have hlt : Config.arbiterChoice turn % (k :: ks).length < (k :: ks).length := Nat.mod_lt _ (by simp)
    rw [List.getD_eq_getElem _ _ hlt, he]
    exact List.getElem_mem hlt

/-- The index picked names an input. -/
theorem pick_lt {now : List Input} (h : now ≠ []) (turn : Nat) : (pick now turn).1 < now.length :=
  (mem_eligibles.mp (pick_mem_eligibles h turn)).1

/-- One input alone is picked without a choice. -/
@[simp] theorem pick_singleton (x : Input) (turn : Nat) : pick [x] turn = (0, turn) := by
  have h : eligible [x] 0 = true := by
    unfold eligible
    simp only [List.getElem?_cons_zero, List.take_zero, List.any_nil, List.any_cons, Bool.or_false, Bool.not_false]
    cases hr : x.isSRx
    · simp
    · simp [Input.not_tick_of_isSRx hr]
  have he : eligibles [x] = [0] := by simp [eligibles, List.range_succ, h]
  simp [pick, he]

/-- One step of the arbiter with an input alone at its instant (R124). -/
theorem arbiterStep_single (s : State) (x : Input) (rest : List (List Input)) (h : s.inputs = [x] :: rest) :
    arbiterStep s = perform x { s with inputs := rest } := by
  simp [arbiterStep, h, State.take, remaining]

/-- One step of the arbiter with nothing presented. -/
theorem arbiterStep_idle (s : State) (h : s.inputs = []) : arbiterStep s = .next s := by
  simp [arbiterStep, h]

/-- Everything a step of the arbiter can do: nothing is presented, the instant is empty, or one input that may be
performed next is performed. -/
theorem arbiterStep_cases (s : State) :
    (s.inputs = [] ∧ arbiterStep s = .next s)
      ∨ (∃ rest, s.inputs = [] :: rest ∧ arbiterStep s = .next { s with inputs := rest })
      ∨ ∃ now rest x, s.inputs = now :: rest ∧ now[(pick now s.arbiterTurn).1]? = some x
          ∧ (pick now s.arbiterTurn).1 ∈ eligibles now ∧ arbiterStep s = perform x (s.take now rest) := by
  cases h : s.inputs with
  | nil => exact .inl ⟨rfl, arbiterStep_idle s h⟩
  | cons now rest =>
    cases now with
    | nil => exact .inr (.inl ⟨rest, rfl, by simp [arbiterStep, h]⟩)
    | cons y ys =>
      have hne : y :: ys ≠ [] := by simp
      have hx := List.getElem?_eq_getElem (pick_lt hne s.arbiterTurn)
      refine .inr (.inr ⟨y :: ys, rest, _, rfl, hx, pick_mem_eligibles hne _, ?_⟩)
      simp [arbiterStep, h, hx]

end Sys2Proof.Machine
end

