-- ==== Sys2Proof/Laws/Bytes.lean ====
section
/-! SUPPORT. Big-endian numbers and the readers of operands: one lemma an encoding. -/

namespace Sys2Proof

@[simp] theorem beBytes_length (n v : Nat) : (beBytes n v).length = n := by
  induction n with
  | zero => rfl
  | succ n ih => simp [beBytes, ih]

theorem beNat_foldl (s : Bytes) (a : Nat) :
    s.foldl (fun a b => a * 256 + b.toNat) a = a * 256 ^ s.length + beNat s := by
  induction s generalizing a with
  | nil => simp [beNat]
  | cons b s ih =>
    have h1 := ih (a * 256 + b.toNat)
    have h2 := ih (0 * 256 + b.toNat)
    simp only [beNat, List.foldl_cons, List.length_cons] at *
    rw [h1, h2, pow_succ]
    ring

theorem beNat_cons (b : Byte) (s : Bytes) : beNat (b :: s) = b.toNat * 256 ^ s.length + beNat s := by
  have h := beNat_foldl s (0 * 256 + b.toNat)
  simpa [beNat] using h

theorem beNat_lt (s : Bytes) : beNat s < 256 ^ s.length := by
  induction s with
  | nil => simp [beNat]
  | cons b s ih =>
    rw [beNat_cons, List.length_cons, pow_succ]
    have hb : b.toNat ≤ 255 := by have := b.isLt; omega
    have : b.toNat * 256 ^ s.length ≤ 255 * 256 ^ s.length := Nat.mul_le_mul_right _ hb
    omega

/-- Reading back `BE_n(v)` gives `v` modulo the width. -/
theorem beNat_beBytes (n v : Nat) : beNat (beBytes n v) = v % 256 ^ n := by
  induction n with
  | zero => simp [beBytes, beNat, Nat.mod_one]
  | succ n ih =>
    rw [beBytes, beNat_cons, ih, beBytes_length, BitVec.toNat_ofNat, Nat.shiftRight_eq_div_pow, pow_mul,
      show (2 : Nat) ^ 8 = 256 from rfl, pow_succ, Nat.mod_mul]
    ring

/-- Writing back the number of `n` bytes gives the bytes. -/
theorem beBytes_beNat (s : Bytes) : beBytes s.length (beNat s) = s := by
  suffices h : ∀ (s : Bytes) (k : Nat), beBytes s.length (k * 256 ^ s.length + beNat s) = s by
    simpa using h s 0
  intro s
  induction s with
  | nil => intro k; rfl
  | cons b s ih =>
    intro k
    have e : k * 256 ^ (b :: s).length + beNat (b :: s) = (k * 256 + b.toNat) * 256 ^ s.length + beNat s := by
      rw [beNat_cons, List.length_cons, pow_succ]; ring
    rw [e, List.length_cons, beBytes, ih]
    congr 1
    apply BitVec.eq_of_toNat_eq
    have hlt := beNat_lt s
    have hp : 0 < 256 ^ s.length := by positivity
    rw [BitVec.toNat_ofNat, Nat.shiftRight_eq_div_pow, pow_mul]
    rw [show (2 : Nat) ^ 8 = 256 from rfl, Nat.mul_comm, Nat.mul_add_div hp, Nat.div_eq_of_lt hlt]
    have := b.isLt
    omega

@[simp] theorem encU32_length (w : Word) : (encU32 w).length = 4 := by simp [encU32]

@[simp] theorem encBytes_length (s : Bytes) : (encBytes s).length = 4 + s.length := by simp [encBytes]

theorem takeN_append (s t : Bytes) : takeN s.length (s ++ t) = some (s, t) := by
  simp [takeN]

/-- What `takeN` gives splits its argument. -/
theorem takeN_eq_some {n : Nat} {s a b : Bytes} (h : takeN n s = some (a, b)) : s = a ++ b ∧ a.length = n := by
  unfold takeN at h
  split at h
  · next hn =>
    simp only [Option.some.injEq, Prod.mk.injEq] at h
    obtain ⟨rfl, rfl⟩ := h
    exact ⟨(List.take_append_drop n s).symm, by simp [hn]⟩
  · cases h

/-- Reading a `u32` operand gives the number that was encoded and leaves what follows. -/
theorem takeU32_encU32 (w : Word) (t : Bytes) : takeU32 (encU32 w ++ t) = some (w, t) := by
  have h : takeN 4 (encU32 w ++ t) = some (encU32 w, t) := by
    have := takeN_append (encU32 w) t
    rwa [encU32_length] at this
  have hw : BitVec.ofNat 32 (beNat (encU32 w)) = w := by
    apply BitVec.eq_of_toNat_eq
    have := w.isLt
    rw [encU32, beNat_beBytes, BitVec.toNat_ofNat]
    omega
  simp [takeU32, h, hw]

/-- What `takeU32` reads is the encoding of its result. -/
theorem takeU32_eq_some {s t : Bytes} {w : Word} (h : takeU32 s = some (w, t)) : s = encU32 w ++ t := by
  unfold takeU32 at h
  split at h
  · next d u hd =>
    obtain ⟨rfl, hl⟩ := takeN_eq_some hd
    simp only [Option.some.injEq, Prod.mk.injEq] at h
    obtain ⟨rfl, rfl⟩ := h
    have hlt := beNat_lt d
    rw [hl] at hlt
    have e : (BitVec.ofNat 32 (beNat d)).toNat = beNat d := by
      rw [BitVec.toNat_ofNat]; exact Nat.mod_eq_of_lt (by omega)
    rw [encU32, e, ← hl, beBytes_beNat]
  · cases h

/-- Reading a `bytes` operand gives the bytes that were encoded and leaves what follows. -/
theorem takeBytes_encBytes (s t : Bytes) (h : bytesFit s) : takeBytes (encBytes s ++ t) = some (s, t) := by
  have e : encBytes s ++ t = encU32 (BitVec.ofNat 32 s.length) ++ (s ++ t) := by
    have : (BitVec.ofNat 32 s.length).toNat = s.length := by
      rw [BitVec.toNat_ofNat]; exact Nat.mod_eq_of_lt h
    rw [encBytes, encU32, this, List.append_assoc]
  have hn : (BitVec.ofNat 32 s.length).toNat = s.length := by
    rw [BitVec.toNat_ofNat]; exact Nat.mod_eq_of_lt h
  rw [takeBytes, e, takeU32_encU32]
  simp only [hn, takeN_append]

/-- What `takeBytes` reads is the encoding of its result, which fits. -/
theorem takeBytes_eq_some {s t d : Bytes} (h : takeBytes s = some (d, t)) : s = encBytes d ++ t ∧ bytesFit d := by
  unfold takeBytes at h
  split at h
  · next n u hu =>
    have hs := takeU32_eq_some hu
    obtain ⟨rfl, hl⟩ := takeN_eq_some h
    have := n.isLt
    refine ⟨?_, by unfold bytesFit; omega⟩
    rw [hs, encBytes, hl, encU32, List.append_assoc]
  · cases h

theorem takeU8_eq_some {s t : Bytes} {b : Byte} (h : takeU8 s = some (b, t)) : s = b :: t := by
  cases s with
  | nil => cases h
  | cons c u => simpa [takeU8] using h

theorem endRecord_eq_ok {i j : Instr} {t : Bytes} (h : endRecord i t = .ok j) : t = [] ∧ j = i := by
  cases t with
  | nil => exact ⟨rfl, by simpa [endRecord] using h.symm⟩
  | cons b u => cases h

/-- A decoded operand of the form `bytes`. -/
theorem decodeBytes_eq_ok {k : Bytes → Instr} {t : Bytes} {i : Instr} (h : decodeBytes k t = .ok i) :
    ∃ s, t = encBytes s ∧ bytesFit s ∧ i = k s := by
  unfold decodeBytes at h
  split at h
  · next s u hs =>
    obtain ⟨rfl, hf⟩ := takeBytes_eq_some hs
    obtain ⟨rfl, rfl⟩ := endRecord_eq_ok h
    exact ⟨s, by simp, hf, rfl⟩
  · cases h

/-- A decoded operand of the form `u8`. -/
theorem decodeU8_eq_ok {k : Byte → Instr} {t : Bytes} {i : Instr} (h : decodeU8 k t = .ok i) :
    ∃ b, t = [b] ∧ i = k b := by
  unfold decodeU8 at h
  split at h
  · next b u hb =>
    obtain rfl := takeU8_eq_some hb
    obtain ⟨rfl, rfl⟩ := endRecord_eq_ok h
    exact ⟨b, rfl, rfl⟩
  · cases h

/-- Decoded operands of the form `u8, bytes`. -/
theorem decodeU8Bytes_eq_ok {k : Byte → Bytes → Instr} {t : Bytes} {i : Instr} (h : decodeU8Bytes k t = .ok i) :
    ∃ b s, t = b :: encBytes s ∧ bytesFit s ∧ i = k b s := by
  unfold decodeU8Bytes at h
  split at h
  · next b u hb =>
    obtain rfl := takeU8_eq_some hb
    obtain ⟨s, rfl, hf, rfl⟩ := decodeBytes_eq_ok h
    exact ⟨b, s, rfl, hf, rfl⟩
  · cases h

/-- Decoded operands of the form `u8, u32`. -/
theorem decodeU8U32_eq_ok {k : Byte → Word → Instr} {t : Bytes} {i : Instr} (h : decodeU8U32 k t = .ok i) :
    ∃ b w, t = b :: encU32 w ∧ i = k b w := by
  unfold decodeU8U32 at h
  split at h
  · next b u hb =>
    obtain rfl := takeU8_eq_some hb
    split at h
    · next w v hw =>
      obtain rfl := takeU32_eq_some hw
      obtain ⟨rfl, rfl⟩ := endRecord_eq_ok h
      exact ⟨b, w, by simp, rfl⟩
    · cases h
  · cases h

/-- The decoded operands of `SEG.ENC`. -/
theorem decodeSegEnc_eq_ok {t : Bytes} {i : Instr} (h : decodeSegEnc t = .ok i) :
    ∃ flags seq ack s, t = flags :: (encU32 seq ++ encU32 ack ++ encBytes s) ∧ bytesFit s
      ∧ i = .segEnc flags seq ack s := by
  unfold decodeSegEnc at h
  split at h
  · next flags u hb =>
    obtain rfl := takeU8_eq_some hb
    split at h
    · next seq v hv =>
      obtain rfl := takeU32_eq_some hv
      split at h
      · next ack w hw =>
        obtain rfl := takeU32_eq_some hw
        obtain ⟨s, rfl, hf, rfl⟩ := decodeBytes_eq_ok h
        exact ⟨flags, seq, ack, s, by simp, hf, rfl⟩
      · cases h
    · cases h
  · cases h

/-- A well-formed `bytes` operand at the end of a record is read back. -/
theorem decodeBytes_encBytes (k : Bytes → Instr) {s : Bytes} (h : bytesFit s) :
    decodeBytes k (encBytes s) = .ok (k s) := by
  have := takeBytes_encBytes s [] h
  rw [List.append_nil] at this
  simp [decodeBytes, this, endRecord]

/-- A `u32` operand at the end of a record is read back. -/
theorem takeU32_encU32_end (w : Word) : takeU32 (encU32 w) = some (w, []) := by
  have := takeU32_encU32 w []
  rwa [List.append_nil] at this

end Sys2Proof
end

