-- ==== Sys2Proof/Laws/Codec.lean ====
section
/-! SUPPORT. The checksum, the frame formatter and the frame parser: what each definition says, once. -/

namespace Sys2Proof.Machine

@[simp] theorem forced_eq {α : Type} (c : Word) (k : Word → α) : forced c k = k c := by
  unfold forced; split <;> simp_all

@[simp] theorem crcFrom_nil (c : Word) : crcFrom c [] = c := rfl

@[simp] theorem crcFrom_cons (c : Word) (b : Byte) (s : Bytes) : crcFrom c (b :: s) = crcFrom (crcByte c b) s := by
  simp [crcFrom]

/-- The checksum loop is the fold of its byte step. -/
theorem crcFrom_eq_foldl (c : Word) (s : Bytes) : crcFrom c s = s.foldl crcByte c := by
  induction s generalizing c with
  | nil => rfl
  | cons b s ih => simp [ih]

theorem crcFrom_append (c : Word) (s t : Bytes) : crcFrom c (s ++ t) = crcFrom (crcFrom c s) t := by
  simp [crcFrom_eq_foldl]

theorem xor_right_cancel {a b k : Word} (h : a ^^^ k = b ^^^ k) : a = b := by
  have := congrArg (· ^^^ k) h
  simpa [BitVec.xor_assoc] using this

/-- The top bit of a bit step tells which branch was taken. -/
theorem crcBit_msb (c : Word) : (crcBit c).getLsbD 31 = c.getLsbD 0 := by
  unfold crcBit
  split <;> simp_all

/-- One bit step of the checksum loses no information. -/
theorem crcBit_injective : Function.Injective crcBit := by
  intro c d h
  have h0 : c.getLsbD 0 = d.getLsbD 0 := by rw [← crcBit_msb, ← crcBit_msb, h]
  have hs : c >>> 1 = d >>> 1 := by
    unfold crcBit at h
    rw [h0] at h
    split at h
    · exact xor_right_cancel h
    · exact h
  apply BitVec.eq_of_getLsbD_eq
  intro i hi
  rcases i with _ | i
  · exact h0
  · have := congrArg (fun v : Word => v.getLsbD i) hs
    simpa [BitVec.getLsbD_ushiftRight, Nat.add_comm] using this

/-- One byte step of the checksum, for a fixed byte, loses no information of the register. -/
theorem crcByte_injective (b : Byte) : Function.Injective (crcByte · b) := by
  intro c d h
  have h8 : c ^^^ b.setWidth 32 = d ^^^ b.setWidth 32 := by
    have := h
    simp only [crcByte] at this
    exact crcBit_injective (crcBit_injective (crcBit_injective (crcBit_injective (crcBit_injective
      (crcBit_injective (crcBit_injective (crcBit_injective this)))))))
  exact xor_right_cancel h8

@[simp] theorem encHead_length (flags : Byte) (seq ack : Word) (payload : Bytes) :
    (encHead flags seq ack payload).length = 12 := by simp [encHead]

/-- A frame is the header and the payload (R50, R54). -/
@[simp] theorem enc_length (flags : Byte) (seq ack : Word) (payload : Bytes) :
    (enc flags seq ack payload).length = 16 + payload.length := by simp [enc]; omega

/-- Zeroing the checksum field of a formatted frame gives the bytes its checksum was computed over (R62, R63). -/
theorem clearCrc_enc (flags : Byte) (seq ack : Word) (payload : Bytes) :
    clearCrc (enc flags seq ack payload) = encHead flags seq ack payload ++ zeros 4 ++ payload := by
  have h1 : (enc flags seq ack payload).take 12 = encHead flags seq ack payload := by
    unfold enc
    rw [List.append_assoc, List.take_append_of_le_length (by simp)]
    exact List.take_of_length_le (by simp)
  have h2 : (enc flags seq ack payload).drop 16 = payload := by
    unfold enc
    rw [List.drop_append_of_le_length (by simp)]
    rw [List.drop_of_length_le (by simp)]
    rfl
  rw [clearCrc, h1, h2]

/-- What a decoded segment says of its frame (R63). -/
theorem dec_eq_some {f : Bytes} {g : Segment} (h : dec f = some g) :
    16 ≤ f.length ∧ (crc32 (clearCrc f)).toNat = beNat (slice f 12 16) ∧ beNat (slice f 10 12) = f.length - 16
      ∧ g = { flags := (f.getD 8 0x00#8).setWidth 4, seq := BitVec.ofNat 32 (beNat (slice f 0 4)),
              ack := BitVec.ofNat 32 (beNat (slice f 4 8)), len := BitVec.ofNat 16 (beNat (slice f 10 12)),
              payload := f.drop 16 } := by
  have e : Config.hdrLen = 16 := rfl
  unfold dec at h
  split at h
  · cases h
  · split at h
    · cases h
    · split at h
      · cases h
      · next h1 h2 h3 => exact ⟨by omega, not_not.mp h2, not_not.mp h3, by simpa using h.symm⟩

/-- The length field of a decoded segment is the length of its payload (R66). -/
theorem dec_len {f : Bytes} {g : Segment} (h : dec f = some g) : g.len.toNat = g.payload.length := by
  obtain ⟨hl, -, hn, rfl⟩ := dec_eq_some h
  have hb := beNat_lt (slice f 10 12)
  have h2 : (slice f 10 12).length = 2 := by simp [slice]; omega
  rw [h2] at hb
  rw [BitVec.toNat_ofNat, Nat.mod_eq_of_lt (by omega), hn, List.length_drop]

end Sys2Proof.Machine
end

