-- ==== Sys2Proof/Laws/Injector.lean ====
section
/-! SUPPORT. The injector: what one decision and one send can do, said once, and a list of frames passing it. -/

namespace Sys2Proof.Machine

@[simp] theorem InjChan.draw_lossT (c : InjChan) : c.draw.lossT = c.lossT := rfl

@[simp] theorem InjChan.draw_corrT (c : InjChan) : c.draw.corrT = c.corrT := rfl

@[simp] theorem InjChan.draw_prng (c : InjChan) : c.draw.prng = prngNext c.prng := rfl

/-- Everything one decision can do (R73). -/
theorem InjChan.decide_cases (c : InjChan) :
    (fires c.draw.prng c.lossT = true ∧ c.decide = (.drop, c.draw))
      ∨ (fires c.draw.prng c.lossT = false ∧ fires c.draw.draw.prng c.corrT = true
          ∧ c.decide = (.corrupt, c.draw.draw))
      ∨ (fires c.draw.prng c.lossT = false ∧ fires c.draw.draw.prng c.corrT = false
          ∧ c.decide = (.pass, c.draw.draw)) := by
  unfold InjChan.decide
  cases h1 : fires c.draw.prng c.lossT <;> cases h2 : fires c.draw.draw.prng c.corrT <;> simp

/-- Everything one send can do (R74). -/
theorem InjChan.send_cases (c : InjChan) (f : Bytes) :
    (fires c.draw.prng c.lossT = true ∧ c.send f = (.drop, none, c.draw))
      ∨ (fires c.draw.prng c.lossT = false ∧ fires c.draw.draw.prng c.corrT = true ∧ f = []
          ∧ c.send f = (.corrupt, some f, c.draw.draw))
      ∨ (fires c.draw.prng c.lossT = false ∧ fires c.draw.draw.prng c.corrT = true ∧ f ≠ []
          ∧ c.send f
            = (.corrupt, some (flipByte f (c.draw.draw.draw.prng.toNat % f.length)), c.draw.draw.draw))
      ∨ (fires c.draw.prng c.lossT = false ∧ fires c.draw.draw.prng c.corrT = false
          ∧ c.send f = (.pass, some f, c.draw.draw)) := by
  rcases c.decide_cases with ⟨h1, h⟩ | ⟨h1, h2, h⟩ | ⟨h1, h2, h⟩
  · exact .inl ⟨h1, by simp [InjChan.send, h]⟩
  · by_cases hf : f = []
    · exact .inr (.inl ⟨h1, h2, hf, by simp [InjChan.send, h, hf]⟩)
    · exact .inr (.inr (.inl ⟨h1, h2, hf, by simp [InjChan.send, h, hf]⟩))
  · exact .inr (.inr (.inr ⟨h1, h2, by simp [InjChan.send, h]⟩))

/-- A send never writes the thresholds. -/
@[simp] theorem InjChan.send_lossT (c : InjChan) (f : Bytes) : (c.send f).2.2.lossT = c.lossT := by
  rcases c.send_cases f with ⟨-, h⟩ | ⟨-, -, -, h⟩ | ⟨-, -, -, h⟩ | ⟨-, -, h⟩ <;> rw [h] <;> rfl

@[simp] theorem InjChan.send_corrT (c : InjChan) (f : Bytes) : (c.send f).2.2.corrT = c.corrT := by
  rcases c.send_cases f with ⟨-, h⟩ | ⟨-, -, -, h⟩ | ⟨-, -, -, h⟩ | ⟨-, -, h⟩ <;> rw [h] <;> rfl

@[simp] theorem flipByte_length (f : Bytes) (k : Nat) : (flipByte f k).length = f.length := by simp [flipByte]

@[simp] theorem passAll_nil (c : InjChan) : passAll c [] = (c, []) := rfl

@[simp] theorem passAll_cons (c : InjChan) (f : Bytes) (fs : List Bytes) :
    passAll c (f :: fs)
      = ((passAll (c.send f).2.2 fs).1, (c.send f).2.1.toList ++ (passAll (c.send f).2.2 fs).2) := rfl

/-- Frames pass in order: first the one list, then the other from the channel it left. -/
theorem passAll_append (c : InjChan) (fs gs : List Bytes) :
    passAll c (fs ++ gs)
      = ((passAll (passAll c fs).1 gs).1, (passAll c fs).2 ++ (passAll (passAll c fs).1 gs).2) := by
  induction fs generalizing c with
  | nil => simp
  | cons f fs ih => simp [ih]

end Sys2Proof.Machine
end

