-- ==== Sys2Proof/Laws/Memory.lean ====
section
/-! SUPPORT. The source memory: its canonical form, and what a read of a range gives. -/

namespace Sys2Proof.Machine

@[simp] theorem Memory.wf_nil : Memory.wf [] = true := rfl

theorem Memory.wf_cons (c : Host.Cell) (m : Memory) :
    Memory.wf (c :: m) = true ↔ (∀ d ∈ m.head?, c.1 < d.1) ∧ Memory.wf m = true := by
  cases m with
  | nil => simp [Memory.wf]
  | cons d m => simp [Memory.wf]

/-- In a canonical memory every later offset lies above the first one. -/
theorem Memory.wf_head_lt {c : Host.Cell} {m : Memory} (h : Memory.wf (c :: m) = true) : ∀ d ∈ m, c.1 < d.1 := by
  induction m generalizing c with
  | nil => simp
  | cons d m ih =>
    rw [Memory.wf_cons] at h
    have hcd : c.1 < d.1 := h.1 d (by simp)
    intro e he
    rcases List.mem_cons.mp he with rfl | he
    · exact hcd
    · exact hcd.trans (ih h.2 e he)

theorem Memory.wf_tail {c : Host.Cell} {m : Memory} (h : Memory.wf (c :: m) = true) : Memory.wf m = true :=
  ((Memory.wf_cons c m).mp h).2

theorem Memory.ofBytes_head (a : Nat) (s : Bytes) : ∀ d ∈ (Memory.ofBytes a s).head?, d.1 = a := by
  cases s <;> simp [Memory.ofBytes]

/-- The memory of a byte string is canonical. -/
theorem Memory.ofBytes_wf (a : Nat) (s : Bytes) : (Memory.ofBytes a s).wf = true := by
  induction s generalizing a with
  | nil => rfl
  | cons b s ih =>
    rw [Memory.ofBytes, Memory.wf_cons]
    exact ⟨fun d hd => by rw [Memory.ofBytes_head _ _ d hd]; exact Nat.lt_succ_self a, ih (a + 1)⟩

/-- The memory of a byte string lists the bytes at their offsets and nothing else. -/
theorem Memory.read?_ofBytes (a : Nat) (s : Bytes) (k : Nat) :
    (Memory.ofBytes a s).read? k = if a ≤ k then s[k - a]? else none := by
  induction s generalizing a with
  | nil => simp [Memory.ofBytes, Memory.read?]
  | cons b s ih =>
    rw [Memory.ofBytes, Memory.read?, ih]
    rcases Nat.lt_trichotomy a k with h | rfl | h
    · have e : k - a = (k - (a + 1)) + 1 := by omega
      simp [h.ne, h.le, Nat.succ_le_of_lt h, e]
    · simp
    · simp [h.ne', Nat.not_le.mpr h, show ¬ a + 1 ≤ k by omega]

/-- Cells below an offset do not matter for reading at or above it. -/
theorem Memory.read?_dropWhile (m : Memory) {a k : Nat} (h : a ≤ k) :
    Memory.read? (m.dropWhile (fun c => c.1 < a)) k = m.read? k := by
  induction m with
  | nil => rfl
  | cons c m ih =>
    by_cases hc : c.1 < a
    · rw [List.dropWhile_cons_of_pos (by simpa using hc), ih, Memory.read?, if_neg (by omega)]
    · rw [List.dropWhile_cons_of_neg (by simpa using hc)]

/-- Dropping the cells below an offset keeps the canonical form. -/
theorem Memory.wf_dropWhile {m : Memory} (h : m.wf = true) (p : Host.Cell → Bool) :
    Memory.wf (m.dropWhile p) = true := by
  induction m with
  | nil => rfl
  | cons c m ih =>
    by_cases hc : p c
    · rw [List.dropWhile_cons_of_pos hc]; exact ih (Memory.wf_tail h)
    · rw [List.dropWhile_cons_of_neg hc]; exact h

/-- Nothing is listed at an offset below every listed one. -/
theorem Memory.read?_eq_none {m : Memory} {a : Nat} (h : ∀ d ∈ m, a < d.1) : m.read? a = none := by
  induction m with
  | nil => rfl
  | cons c m ih =>
    rw [Memory.read?, if_neg (h c (by simp)).ne', ih fun d hd => h d (by simp [hd])]

/-- In a canonical memory with no offset below `a`, the first cell alone decides what stands at `a`. -/
theorem Memory.read?_take_one {m : Memory} (h : m.wf = true) {a : Nat} (ha : ∀ d ∈ m.head?, a ≤ d.1) :
    Memory.read? (m.take 1) a = m.read? a := by
  cases m with
  | nil => rfl
  | cons c m =>
    have hc : a ≤ c.1 := ha c (by simp)
    by_cases e : c.1 = a
    · simp [Memory.read?, e]
    · have : Memory.read? m a = none :=
        Memory.read?_eq_none fun d hd => lt_of_le_of_lt hc (Memory.wf_head_lt h d hd)
      simp [Memory.read?, e, this]

theorem Memory.dropWhile_head (m : Memory) (a : Nat) :
    ∀ d ∈ (m.dropWhile (fun c => c.1 < a)).head?, a ≤ d.1 := by
  intro d hd
  have := List.head?_dropWhile_not (fun c : Host.Cell => decide (c.1 < a)) m
  rw [Option.mem_def.mp hd] at this
  simpa using this

/-- Reading a range of a canonical memory gives the byte at each offset of the range. -/
theorem Memory.sourceBytes_eq {m : Memory} (h : m.wf = true) (a n : Nat) :
    m.sourceBytes a n = (List.range n).map fun k => m.sourceAt (a + k) := by
  induction n generalizing m a with
  | zero => simp [Memory.sourceBytes]
  | succ n ih =>
    have hw := Memory.wf_dropWhile h (fun c => decide (c.1 < a))
    have e0 : Memory.sourceAt ((m.dropWhile (fun c => c.1 < a)).take 1) a = m.sourceAt a := by
      rw [Memory.sourceAt, Memory.read?_take_one hw (Memory.dropWhile_head m a), Memory.read?_dropWhile m le_rfl,
        ← Memory.sourceAt]
    rw [Memory.sourceBytes, List.range_succ_eq_map, List.map_cons, List.map_map, ih hw, e0, Nat.add_zero]
    congr 1
    apply List.map_congr_left
    intro k _
    simp only [Function.comp, Memory.sourceAt]
    rw [Memory.read?_dropWhile m (by omega), show a + 1 + k = a + k.succ by omega]

/-- The number of bytes a read gives. -/
@[simp] theorem Memory.sourceBytes_length (m : Memory) (a n : Nat) : (m.sourceBytes a n).length = n := by
  induction n generalizing m a with
  | zero => rfl
  | succ n ih => simp [Memory.sourceBytes, ih]

end Sys2Proof.Machine
end

