-- ==== Sys2Proof/Laws/PerInstr.lean ====
section
/-! SUPPORT. What holds of the record of every operation, one lemma a constructor: its length is the one its operands
need (30_encoding.md R55, R58). -/

namespace Sys2Proof.Laws.RecordLength

/-- The record of a well-formed operation has exactly the length that its own bytes announce (R55). -/
def Statement (i : Instr) : Prop := i.wellFormed = true → recordLength (encode i) = (encode i).length

/-- The length field at `pos` of a record that holds the encoding of `s` there. -/
theorem lengthField_eq (h : Bytes) {pos : Nat} (hp : h.length = pos) {s : Bytes} (hs : bytesFit s) :
    lengthField pos (h ++ encBytes s) = s.length := by
  have e : ((h ++ encBytes s ++ zeros (pos + 4)).drop pos).take 4 = beBytes 4 s.length := by
    rw [List.append_assoc, ← hp, List.drop_left, encBytes, List.append_assoc]
    have := List.take_left (l₁ := beBytes 4 s.length) (l₂ := s ++ zeros (h.length + 4))
    rwa [beBytes_length] at this
  rw [lengthField, e, beNat_beBytes]
  exact Nat.mod_eq_of_lt hs

theorem crcGen (data : Bytes) : Statement (.crcGen data) := by
  intro h
  have := lengthField_eq [0x01#8] (pos := 1) rfl (of_decide_eq_true h)
  simp only [List.singleton_append] at this
  simp [encode, recordLength, this]
  omega

theorem segEnc (flags : Byte) (seq ack : Word) (payload : Bytes) : Statement (.segEnc flags seq ack payload) := by
  intro h
  have := lengthField_eq (0x02#8 :: flags :: (encU32 seq ++ encU32 ack)) (pos := 10) (by simp) (of_decide_eq_true h)
  simp only [List.cons_append, List.append_assoc] at this
  simp [encode, recordLength, this]
  omega

theorem segDec (frame : Bytes) : Statement (.segDec frame) := by
  intro h
  have := lengthField_eq [0x03#8] (pos := 1) rfl (of_decide_eq_true h)
  simp only [List.singleton_append] at this
  simp [encode, recordLength, this]
  omega

theorem leDecide (dir : Byte) : Statement (.leDecide dir) := fun _ => by simp [encode, recordLength]

theorem leSend (dir : Byte) (frame : Bytes) : Statement (.leSend dir frame) := by
  intro h
  have := lengthField_eq [0x11#8, dir] (pos := 2) rfl (of_decide_eq_true h)
  simp only [List.cons_append, List.nil_append] at this
  simp [encode, recordLength, this]
  omega

theorem sOpen : Statement .sOpen := fun _ => by simp [encode, recordLength]

theorem sRx (frame : Bytes) : Statement (.sRx frame) := by
  intro h
  have := lengthField_eq [0x21#8] (pos := 1) rfl (of_decide_eq_true h)
  simp only [List.singleton_append] at this
  simp [encode, recordLength, this]
  omega

theorem sTick : Statement .sTick := fun _ => by simp [encode, recordLength]

theorem rRx (frame : Bytes) : Statement (.rRx frame) := by
  intro h
  have := lengthField_eq [0x30#8] (pos := 1) rfl (of_decide_eq_true h)
  simp only [List.singleton_append] at this
  simp [encode, recordLength, this]
  omega

theorem rClose : Statement .rClose := fun _ => by simp [encode, recordLength]

theorem regRd (addr : Byte) : Statement (.regRd addr) := fun _ => by simp [encode, recordLength]

theorem regWr (addr : Byte) (data : Word) : Statement (.regWr addr data) := fun _ => by simp [encode, recordLength]

end Sys2Proof.Laws.RecordLength
end

