-- ==== Sys2Proof/Laws/Receiver.lean ====
section
/-! SUPPORT. The shared operations of the receiver: what each can do, and what it leaves unchanged. -/

namespace Sys2Proof.Machine

/-- Two states agree in everything the receiver engine never writes (R8, R129). -/
structure ReceiverFrame (s t : State) : Prop where
  cfg : t.cfg = s.cfg
  fwd : t.fwd = s.fwd
  snd : t.snd = s.snd
  sndCnt : t.sndCnt = s.sndCnt
  src : t.src = s.src
  sndOut : t.sndOut = s.sndOut
  inputs : t.inputs = s.inputs
  arbiterTurn : t.arbiterTurn = s.arbiterTurn
  lossT : t.rev.lossT = s.rev.lossT
  corrT : t.rev.corrT = s.rev.corrT
  sink : s.sink <+: t.sink
  port : s.rcvOut <+: t.rcvOut

theorem ReceiverFrame.refl (s : State) : ReceiverFrame s s :=
  ⟨rfl, rfl, rfl, rfl, rfl, rfl, rfl, rfl, rfl, rfl, List.prefix_refl _, List.prefix_refl _⟩

theorem ReceiverFrame.trans {s t u : State} (h : ReceiverFrame s t) (k : ReceiverFrame t u) : ReceiverFrame s u :=
  ⟨k.cfg.trans h.cfg, k.fwd.trans h.fwd, k.snd.trans h.snd, k.sndCnt.trans h.sndCnt, k.src.trans h.src,
    k.sndOut.trans h.sndOut, k.inputs.trans h.inputs, k.arbiterTurn.trans h.arbiterTurn, k.lossT.trans h.lossT,
    k.corrT.trans h.corrT, h.sink.trans k.sink, h.port.trans k.port⟩

theorem State.countR_frame (s : State) (c : RcvCtr) (n : Nat) : ReceiverFrame s (s.countR c n) := by
  constructor <;> simp

theorem State.setRcv_frame (s : State) (x : Receiver) : ReceiverFrame s (s.setRcv x) := by
  constructor <;> simp

theorem State.appendSink_frame (s : State) (v : Bytes) : ReceiverFrame s (s.appendSink v) := by
  constructor <;> simp

theorem State.sendReply_frame (s : State) (k : Byte) (a : Word) : ReceiverFrame s (s.sendReply k a) := by
  constructor <;> simp

theorem State.deliver_frame (s : State) (seg : Segment) : ReceiverFrame s (s.deliver seg) :=
  (((s.appendSink_frame _).trans (State.setRcv_frame _ _)).trans (State.countR_frame _ _ _)).trans
    (State.sendReply_frame _ _ _)

theorem State.rxListening_frame (s : State) (k : RcvKind) (g : Segment) : ReceiverFrame s (s.rxListening k g) := by
  unfold State.rxListening
  split
  · exact (State.setRcv_frame s _).trans (State.sendReply_frame _ _ _)
  · exact s.countR_frame _ _

theorem State.rxData_frame (s : State) (g : Segment) : ReceiverFrame s (s.rxData g) := by
  unfold State.rxData
  split
  · split
    · exact s.countR_frame _ _
    · exact s.deliver_frame g
  · split <;> exact (State.countR_frame s _ _).trans (State.sendReply_frame _ _ _)

theorem State.rxSynAgain_frame (s : State) (g : Segment) : ReceiverFrame s (s.rxSynAgain g) := by
  unfold State.rxSynAgain
  split
  · exact s.sendReply_frame _ _
  · exact s.countR_frame _ _

theorem State.rxFin_frame (s : State) (g : Segment) : ReceiverFrame s (s.rxFin g) := by
  unfold State.rxFin
  split
  · exact (State.setRcv_frame s _).trans (State.sendReply_frame _ _ _)
  · exact s.countR_frame _ _

theorem State.rxRcvClosing_frame (s : State) (k : RcvKind) (g : Segment) :
    ReceiverFrame s (s.rxRcvClosing k g) := by
  unfold State.rxRcvClosing
  split
  · exact s.sendReply_frame _ _
  · exact s.countR_frame _ _

/-- What an arriving frame can change, whatever the state and the frame (R101). -/
theorem State.rxRcvFrame_frame (s : State) (f : Bytes) : ReceiverFrame s (s.rxRcvFrame f) := by
  unfold State.rxRcvFrame
  split
  · exact s.countR_frame _ _
  · split
    · exact s.countR_frame _ _
    · next kind _ =>
      split
      · exact s.countR_frame _ _
      · unfold State.rxRcvState
        split
        · exact s.rxListening_frame _ _
        · cases kind
          · exact s.rxSynAgain_frame _
          · exact s.rxFin_frame _
          · exact s.rxData_frame _
        · exact s.rxRcvClosing_frame _ _
        · exact ReceiverFrame.refl s

theorem ReceiverFrame.answer {s t : State} (h : ReceiverFrame s t) (r : Results) : ReceiverFrame s (t.answer r) :=
  h.trans (by constructor <;> simp)

end Sys2Proof.Machine
end

