-- ==== Sys2Proof/Laws/Sender.lean ====
section
/-! SUPPORT. The shared operations of the sender: what each can do where it answers, and what it leaves unchanged. -/

namespace Sys2Proof.Machine

theorem CfgRegs.mayRead_iff (k : CfgRegs) (seq n : Nat) :
    k.mayRead seq n = true ↔
      1 ≤ n ∧ n ≤ k.mss.toNat ∧ k.isn.toNat ≤ seq ∧ seq - k.isn.toNat + n ≤ k.totalLen.toNat := by
  simp [CfgRegs.mayRead]

/-- A read of the source answers exactly for the ranges of R42. -/
theorem State.readSource_eq_ok {s : State} {seq n : Nat} {p : Bytes} :
    s.readSource seq n = .ok p ↔
      s.cfg.mayRead seq n = true ∧ p = s.src.sourceBytes (seq - s.cfg.isn.toNat) n := by
  unfold State.readSource
  by_cases h : s.cfg.mayRead seq n = true
  · rw [if_pos h, Except.ok.injEq]
    exact ⟨fun e => ⟨h, e.symm⟩, fun e => e.2.symm⟩
  · rw [if_neg h]
    exact ⟨fun e => (nomatch e), fun e => absurd e.1 h⟩

/-- The state after one DATA segment (R80) with payload `p`. -/
theorem State.sendData_eq_ok {s t : State} {seq n : Nat} :
    s.sendData seq n = .ok t ↔
      s.cfg.mayRead seq n = true
        ∧ t = ((s.emitS (enc flagData (BitVec.ofNat 32 seq) 0#32
            (s.src.sourceBytes (seq - s.cfg.isn.toNat) n))).countS .segSent).countS .bytes n := by
  unfold State.sendData
  cases h : s.readSource seq n with
  | ok p =>
    obtain ⟨h1, rfl⟩ := State.readSource_eq_ok.mp h
    simp [h1, eq_comm]
  | error f =>
    have : ¬ s.cfg.mayRead seq n = true := fun hm => by
      rw [State.readSource_eq_ok.mpr ⟨hm, rfl⟩] at h; cases h
    simp [this]

/-- `send_data` fails only for a range the sender never reads. -/
theorem State.sendData_eq_error {s : State} {seq n : Nat} {f : Fault} (h : s.sendData seq n = .error f) :
    f = .sourceRange ∧ s.cfg.mayRead seq n = false := by
  unfold State.sendData State.readSource at h
  by_cases hm : s.cfg.mayRead seq n = true <;> simp_all

/-- Two states agree in everything the sender engine never writes (R8, R129). -/
structure SenderFrame (s t : State) : Prop where
  cfg : t.cfg = s.cfg
  rev : t.rev = s.rev
  rcv : t.rcv = s.rcv
  rcvCnt : t.rcvCnt = s.rcvCnt
  src : t.src = s.src
  sink : t.sink = s.sink
  rcvOut : t.rcvOut = s.rcvOut
  inputs : t.inputs = s.inputs
  arbiterTurn : t.arbiterTurn = s.arbiterTurn
  lossT : t.fwd.lossT = s.fwd.lossT
  corrT : t.fwd.corrT = s.fwd.corrT
  port : s.sndOut <+: t.sndOut

theorem SenderFrame.refl (s : State) : SenderFrame s s :=
  ⟨rfl, rfl, rfl, rfl, rfl, rfl, rfl, rfl, rfl, rfl, rfl, List.prefix_refl _⟩

theorem SenderFrame.trans {s t u : State} (h : SenderFrame s t) (k : SenderFrame t u) : SenderFrame s u :=
  ⟨k.cfg.trans h.cfg, k.rev.trans h.rev, k.rcv.trans h.rcv, k.rcvCnt.trans h.rcvCnt, k.src.trans h.src,
    k.sink.trans h.sink, k.rcvOut.trans h.rcvOut, k.inputs.trans h.inputs, k.arbiterTurn.trans h.arbiterTurn,
    k.lossT.trans h.lossT, k.corrT.trans h.corrT, h.port.trans k.port⟩

theorem State.emitS_frame (s : State) (f : Bytes) : SenderFrame s (s.emitS f) := by
  constructor <;> simp

theorem State.countS_frame (s : State) (c : SndCtr) (n : Nat) : SenderFrame s (s.countS c n) := by
  constructor <;> simp

theorem State.sendControl_frame (s : State) (k : Byte) (q : Word) : SenderFrame s (s.sendControl k q) :=
  (s.emitS_frame _).trans (State.countS_frame _ _ _)

theorem State.sendData_frame {s t : State} {seq n : Nat} (h : s.sendData seq n = .ok t) : SenderFrame s t := by
  obtain ⟨-, rfl⟩ := State.sendData_eq_ok.mp h
  exact ((s.emitS_frame _).trans (State.countS_frame _ _ _)).trans (State.countS_frame _ _ _)

/-- Sending data writes no working register of the sender. -/
theorem State.sendData_snd {s t : State} {seq n : Nat} (h : s.sendData seq n = .ok t) : t.snd = s.snd := by
  obtain ⟨-, rfl⟩ := State.sendData_eq_ok.mp h
  rfl

/-- A change of the sender's working registers alone. -/
theorem State.setSnd_frame (s : State) (x : Sender) : SenderFrame s (s.setSnd x) := by
  constructor <;> simp

theorem State.arm_frame (s : State) : SenderFrame s s.arm := State.setSnd_frame s _

theorem State.disarm_frame (s : State) : SenderFrame s s.disarm := State.setSnd_frame s _

theorem State.failRun_frame (s : State) : SenderFrame s s.failRun := State.setSnd_frame s _

theorem State.advanceNext_frame (s : State) (n : Nat) (e : Bool) : SenderFrame s (s.advanceNext n e) := by
  unfold State.advanceNext
  split
  · exact (State.setSnd_frame s _).trans (State.arm_frame _)
  · exact State.setSnd_frame s _

/-- The sender's working registers after `SND_NEXT` has moved (R85). -/
theorem State.advanceNext_snd (s : State) (n : Nat) (e : Bool) :
    (s.advanceNext n e).snd =
      { s.snd with
        next := BitVec.ofNat 32 (s.snd.next.toNat + n)
        armed := e || s.snd.armed
        tmrCnt := if e then s.cfg.rtoTicks else s.snd.tmrCnt } := by
  cases e <;> rfl

/-- Everything one iteration of the fill loop can do (R85). -/
theorem State.fillOne_eq_ok {s t : State} (h : s.fillOne = .ok t) :
    ∃ u, s.sendData s.snd.next.toNat s.fillSize = .ok u
      ∧ t = u.advanceNext s.fillSize (decide (s.snd.next = s.snd.base)) := by
  unfold State.fillOne at h
  split at h
  · cases h
  · next u hu => exact ⟨u, hu, by simpa using h.symm⟩

theorem State.fillOne_frame {s t : State} (h : s.fillOne = .ok t) : SenderFrame s t := by
  obtain ⟨u, hu, rfl⟩ := State.fillOne_eq_ok h
  exact (State.sendData_frame hu).trans (State.advanceNext_frame u _ _)

/-- An invariant of the iterations of the fill loop is an invariant of the loop. -/
theorem State.fillLoop_induct {P : State → Prop}
    (step : ∀ s t, s.mayFill = true → s.fillOne = .ok t → P s → P t) :
    ∀ k s t, State.fillLoop k s = .ok t → P s → P t := by
  intro k
  induction k with
  | zero => intro s t h hp; simp only [State.fillLoop, Except.ok.injEq] at h; exact h ▸ hp
  | succ k ih =>
    intro s t h hp
    rw [State.fillLoop] at h
    split at h
    · next hm =>
      split at h
      · next u hu => exact ih u t h (step s u hm hu hp)
      · cases h
    · simp only [Except.ok.injEq] at h; exact h ▸ hp

theorem State.fill_frame {s t : State} (h : s.fill = .ok t) : SenderFrame s t :=
  State.fillLoop_induct (P := SenderFrame s) (fun _ _ _ hu hp => hp.trans (State.fillOne_frame hu)) _ _ _ h
    (SenderFrame.refl s)

/-- What the fill loop leaves of the sender's working registers: only `SND_NEXT` and the timer change. -/
theorem State.fill_snd {s t : State} (h : s.fill = .ok t) :
    t.snd.st = s.snd.st ∧ t.snd.done = s.snd.done ∧ t.snd.fail = s.snd.fail ∧ t.snd.dupCnt = s.snd.dupCnt
      ∧ t.snd.retry = s.snd.retry ∧ t.snd.base = s.snd.base ∧ t.snd.endSeq = s.snd.endSeq := by
  refine State.fillLoop_induct (P := fun t => t.snd.st = s.snd.st ∧ t.snd.done = s.snd.done ∧ t.snd.fail = s.snd.fail
      ∧ t.snd.dupCnt = s.snd.dupCnt ∧ t.snd.retry = s.snd.retry ∧ t.snd.base = s.snd.base
      ∧ t.snd.endSeq = s.snd.endSeq) ?_ _ _ _ h ⟨rfl, rfl, rfl, rfl, rfl, rfl, rfl⟩
  intro s' t' _ hu hp
  obtain ⟨u, hd, rfl⟩ := State.fillOne_eq_ok hu
  simpa [State.advanceNext_snd, State.sendData_snd hd] using hp

theorem State.beginClosing_frame (s : State) : SenderFrame s s.beginClosing :=
  ((State.sendControl_frame s _ _).trans (State.setSnd_frame _ _)).trans (State.arm_frame _)

theorem State.finishCheck_frame (s : State) : SenderFrame s s.finishCheck := by
  unfold State.finishCheck
  split
  · exact s.beginClosing_frame
  · exact SenderFrame.refl s

theorem State.fillAndFinish_eq_ok {s t : State} (h : s.fillAndFinish = .ok t) :
    ∃ u, s.fill = .ok u ∧ t = u.finishCheck := by
  unfold State.fillAndFinish at h
  split at h
  · next u hu => exact ⟨u, hu, by simpa using h.symm⟩
  · cases h

theorem State.fillAndFinish_frame {s t : State} (h : s.fillAndFinish = .ok t) : SenderFrame s t := by
  obtain ⟨u, hu, rfl⟩ := State.fillAndFinish_eq_ok h
  exact (State.fill_frame hu).trans u.finishCheck_frame

/-- The Go-Back-N loop writes no working register and nothing outside the sender (R91). -/
theorem State.resendLoop_frame {k p : Nat} {s t : State} (h : State.resendLoop k p s = .ok t) :
    SenderFrame s t ∧ t.snd = s.snd := by
  induction k generalizing p s with
  | zero => simp only [State.resendLoop, Except.ok.injEq] at h; exact h ▸ ⟨SenderFrame.refl s, rfl⟩
  | succ k ih =>
    rw [State.resendLoop] at h
    split at h
    · split at h
      · cases h
      · next u hu =>
        obtain ⟨h1, h2⟩ := ih h
        exact ⟨((State.sendData_frame hu).trans (State.countS_frame u _ _)).trans h1,
          h2.trans ((State.countS_snd u _ _).trans (State.sendData_snd hu))⟩
    · simp only [Except.ok.injEq] at h; exact h ▸ ⟨SenderFrame.refl s, rfl⟩

theorem State.resend_frame {s t : State} (h : s.resend = .ok t) : SenderFrame s t ∧ t.snd = s.snd := by
  unfold State.resend at h
  split at h
  · simp only [Except.ok.injEq] at h
    exact h ▸ ⟨(State.sendControl_frame s _ _).trans (State.countS_frame _ _ _), rfl⟩
  · exact State.resendLoop_frame h
  · simp only [Except.ok.injEq] at h
    exact h ▸ ⟨(State.sendControl_frame s _ _).trans (State.countS_frame _ _ _), rfl⟩
  · simp only [Except.ok.injEq] at h; exact h ▸ ⟨SenderFrame.refl s, rfl⟩

/-- A number that fits its register is stored as it is. -/
theorem fit_eq_ok {w v : Nat} {x : BitVec w} : fit w v = .ok x ↔ v < 2 ^ w ∧ x = BitVec.ofNat w v := by
  unfold fit
  split <;> simp_all [eq_comm]

/-- Everything the expiry of the timer can do (R91, R92). -/
theorem State.expire_eq_ok {s t : State} (h : s.expire = .ok t) :
    (s.snd.retry = s.cfg.maxRetry ∧ t = s.failRun)
      ∨ (s.snd.retry ≠ s.cfg.maxRetry ∧ s.snd.retry.toNat + 1 < 2 ^ 16
          ∧ ∃ u, (s.setSnd { s.snd with retry := BitVec.ofNat 16 (s.snd.retry.toNat + 1) }).resend = .ok u
            ∧ t = u.arm) := by
  unfold State.expire at h
  split at h
  · next hr => exact .inl ⟨hr, by simpa using h.symm⟩
  · next hr =>
    split at h
    · cases h
    · next r hf =>
      obtain ⟨hv, rfl⟩ := fit_eq_ok.mp hf
      split at h
      · cases h
      · next u hu => exact .inr ⟨hr, hv, u, hu, by simpa using h.symm⟩

theorem State.expire_frame {s t : State} (h : s.expire = .ok t) : SenderFrame s t := by
  rcases State.expire_eq_ok h with ⟨-, rfl⟩ | ⟨-, -, u, hu, rfl⟩
  · exact s.failRun_frame
  · exact ((State.setSnd_frame s _).trans (State.resend_frame hu).1).trans u.arm_frame

/-- Everything one tick of an armed timer can do (R91). -/
theorem State.tick_eq_ok {s t : State} (h : s.tick = .ok t) :
    s.snd.tmrCnt ≠ 0#32
      ∧ ((s.snd.tmrCnt - 1#32 ≠ 0#32 ∧ t = s.countDown)
        ∨ (s.snd.tmrCnt - 1#32 = 0#32 ∧ s.countDown.expire = .ok t)) := by
  unfold State.tick at h
  split at h
  · cases h
  · next h0 =>
    refine ⟨h0, ?_⟩
    split at h
    · next h1 => exact .inl ⟨h1, by simpa using h.symm⟩
    · next h1 => exact .inr ⟨not_not.mp h1, h⟩

theorem State.countDown_frame (s : State) : SenderFrame s s.countDown := State.setSnd_frame s _

theorem State.tick_frame {s t : State} (h : s.tick = .ok t) : SenderFrame s t := by
  rcases (State.tick_eq_ok h).2 with ⟨-, rfl⟩ | ⟨-, he⟩
  · exact s.countDown_frame
  · exact s.countDown_frame.trans (State.expire_frame he)

/-- Everything a duplicate ACK can do (R89). -/
theorem State.ackDuplicate_eq_ok {s t : State} (h : s.ackDuplicate = .ok t) :
    (s.snd.dupCnt.toNat + 1 = 3
        ∧ ∃ u, (s.countS .dupAck).sendData s.snd.base.toNat
              (min s.cfg.mss.toNat (s.snd.next.toNat - s.snd.base.toNat)) = .ok u
          ∧ t = (u.countS .retxFast).setSnd { s.snd with dupCnt := 0#2 })
      ∨ (s.snd.dupCnt.toNat + 1 ≠ 3 ∧ s.snd.dupCnt.toNat + 1 < 2 ^ 2
        ∧ t = (s.countS .dupAck).setSnd { s.snd with dupCnt := BitVec.ofNat 2 (s.snd.dupCnt.toNat + 1) }) := by
  have e : Config.dupThresh = 3 := rfl
  unfold State.ackDuplicate at h
  split at h
  · next hd =>
    split at h
    · cases h
    · next u hu => exact .inl ⟨hd, u, hu, by simpa using h.symm⟩
  · next hd =>
    split at h
    · cases h
    · next d hf =>
      obtain ⟨hv, rfl⟩ := fit_eq_ok.mp hf
      exact .inr ⟨hd, hv, by simpa using h.symm⟩

theorem State.ackDuplicate_frame {s t : State} (h : s.ackDuplicate = .ok t) : SenderFrame s t := by
  rcases State.ackDuplicate_eq_ok h with ⟨-, u, hu, rfl⟩ | ⟨-, -, rfl⟩
  · have := (State.countS_frame s .dupAck 1).trans (State.sendData_frame hu)
    exact (this.trans (State.countS_frame u _ _)).trans (State.setSnd_frame _ _)
  · exact (State.countS_frame s .dupAck 1).trans (State.setSnd_frame _ _)

theorem State.advanceBase_frame (s : State) (a : Word) : SenderFrame s (s.advanceBase a) :=
  (State.setSnd_frame s _).trans (State.disarm_frame _)

theorem State.establish_frame (s : State) : SenderFrame s s.establish :=
  (State.setSnd_frame s _).trans (State.disarm_frame _)

theorem State.ackProgress_frame {s t : State} {a : Word} (h : s.ackProgress a = .ok t) : SenderFrame s t := by
  unfold State.ackProgress at h
  split at h
  · exact ((s.advanceBase_frame a).trans (State.arm_frame _)).trans (State.fillAndFinish_frame h)
  · exact (s.advanceBase_frame a).trans (State.fillAndFinish_frame h)

/-- What an arriving frame can change, whatever the state and the frame (R84). -/
theorem State.rxSndFrame_frame {s t : State} {f : Bytes} (h : s.rxSndFrame f = .ok t) : SenderFrame s t := by
  have count : ∀ c, Except.ok (s.countS c) = (Except.ok t : Except Fault State) → SenderFrame s t := by
    intro c hc; simp only [Except.ok.injEq] at hc; exact hc ▸ State.countS_frame s c 1
  unfold State.rxSndFrame at h
  split at h
  · exact count _ h
  · split at h
    · exact count _ h
    · next kind _ =>
      split at h
      · exact count _ h
      · unfold State.rxSndState at h
        split at h
        · simp only [Except.ok.injEq] at h; exact h ▸ SenderFrame.refl s
        · unfold State.rxSynSent at h
          split at h
          · exact s.establish_frame.trans (State.fillAndFinish_frame h)
          · exact count _ h
        · unfold State.rxEstablished at h
          split at h
          · exact State.ackProgress_frame h
          · split at h
            · exact State.ackDuplicate_frame h
            · exact count _ h
        · simp only [Except.ok.injEq] at h
          subst h
          unfold State.rxSndClosing
          split
          · exact (State.setSnd_frame s _).trans (State.disarm_frame _)
          · exact State.countS_frame s _ 1

/-- An engine operation of the sender ends in a next state exactly where its body does, and answers `OK`. -/
theorem State.answerSnd_eq_next {s u : State} {r : Except Fault State} (h : s.answerSnd r = .next u) :
    ∃ t, r = .ok t ∧ u = t.answer (.frames (t.sndOut.drop s.sndOut.length)) := by
  cases r with
  | ok t => exact ⟨t, rfl, by simpa [State.answerSnd] using h.symm⟩
  | error f => cases h

theorem SenderFrame.answer {s t : State} (h : SenderFrame s t) (r : Results) : SenderFrame s (t.answer r) :=
  h.trans (by constructor <;> simp)

end Sys2Proof.Machine
end

