-- ==== Sys2Proof/Tests/Slice0.lean ====
section
/-! SUPPORT. Tests: the well-formedness smoke test, records written out from the encoding of spec/, single operations with
the results spec/95_test_vectors.md states, and for every statement with hypotheses a state and operands that meet them
(the name says which statement). -/

namespace Sys2Proof.Tests

open Sys2Proof Sys2Proof.Machine

/-! ## Helpers -/

/-- The response after an operation. -/
def resp : Host.Outcome State Fault Refusal → Option Response
  | .next t => t.response
  | .fault _ => none
  | .refused _ => none

/-- Something read from the state after an operation. -/
def seen {α : Type} (f : State → α) : Host.Outcome State Fault Refusal → Option α
  | .next t => some (f t)
  | .fault _ => none
  | .refused _ => none

/-- The configuration of the window vectors of 95_test_vectors.md section 2.6 with `total` source bytes. -/
def cfg (total : Word) : CfgRegs :=
  { CfgRegs.reset with mss := 4#16, maxWin := 6#32, rtoTicks := 3#32, maxRetry := 5#16, totalLen := total }

/-- The source bytes 0, 1, … of 95_test_vectors.md. -/
def source : Memory := Memory.ofBytes 0 [0, 1, 2, 3, 4, 5, 6, 7, 8, 9]

/-- A sender in state `st` with `total` bytes to send, the window `base .. next - 1` and the timer at `tmr`. -/
def sender (st : SndState) (total base next tmr : Word) : State :=
  { State.reset with
    cfg := cfg total, src := source
    snd := { Sender.reset with
      st := st, base := base, next := next, endSeq := total, tmrCnt := tmr, armed := tmr != 0#32 } }

/-- A receiver in state `st` that started at `irs`. -/
def receiver (st : RcvState) (expected irs : Word) : State :=
  { State.reset with rcv := { st := st, expected := expected, irs := irs } }

/-- The frames of 40_codec.md R67. -/
def fSyn : Bytes := [0, 0, 0, 0, 0, 0, 0, 0, 4, 0, 0, 0, 0x68, 0xF1, 0x45, 0xAF]
def fSynAck : Bytes := [0, 0, 0, 0, 0, 0, 0, 0, 6, 0, 0, 0, 0x2A, 0xD4, 0x42, 0xD2]
def fHello : Bytes := [0, 0, 0, 0, 0, 0, 0, 0, 1, 0, 0, 5, 0x8A, 0x89, 0x86, 0xD1, 0x68, 0x65, 0x6C, 0x6C, 0x6F]
def fAck5 : Bytes := [0, 0, 0, 0, 0, 0, 0, 5, 2, 0, 0, 0, 0xE4, 0x09, 0x09, 0x67]
def fFin5 : Bytes := [0, 0, 0, 5, 0, 0, 0, 0, 8, 0, 0, 0, 0x22, 0x71, 0xE3, 0xF3]
def fFinAck5 : Bytes := [0, 0, 0, 0, 0, 0, 0, 5, 0x0A, 0, 0, 0, 0x37, 0xEC, 0x12, 0xD2]
def fNone : Bytes := [0, 0, 0, 0, 0, 0, 0, 0, 0, 0, 0, 0, 0xEC, 0xBB, 0x4B, 0x55]
def fReserved : Bytes :=
  [0, 0, 0, 0, 0, 0, 0, 0, 0xF1, 0xAB, 0, 5, 0x99, 0x73, 0xCF, 0x54, 0x68, 0x65, 0x6C, 0x6C, 0x6F]

/-- The text of the `hello` frames. -/
def hello : Bytes := [0x68, 0x65, 0x6C, 0x6C, 0x6F]

def gSyn : Segment := ⟨4, 0, 0, 0, []⟩
def gSynAck : Segment := ⟨6, 0, 0, 0, []⟩
def gHello : Segment := ⟨1, 0, 0, 5, hello⟩
def gAck5 : Segment := ⟨2, 0, 5, 0, []⟩
def gFin5 : Segment := ⟨8, 5, 0, 0, []⟩
def gFinAck5 : Segment := ⟨0xA, 0, 5, 0, []⟩
def gNone : Segment := ⟨0, 0, 0, 0, []⟩

/-! ## Well-formedness -/

theorem test_wellFormed_each_form :
    Instr.wellFormed (.crcGen hello) && Instr.wellFormed (.segEnc 1 0 0 hello) && Instr.wellFormed (.leSend 7 [])
      && Instr.wellFormed .sTick && Instr.wellFormed (.regWr 0x41 7) = true := by decide

/-- One byte more than a `u32` length field can say, for each operand of the form `bytes`. -/
theorem illFormed (n : Nat) (h : 2 ^ 32 ≤ n) :
    Instr.wellFormed (.crcGen (zeros n)) = false ∧ Instr.wellFormed (.segEnc 1 0 0 (zeros n)) = false
      ∧ Instr.wellFormed (.segDec (zeros n)) = false ∧ Instr.wellFormed (.leSend 0 (zeros n)) = false
      ∧ Instr.wellFormed (.sRx (zeros n)) = false ∧ Instr.wellFormed (.rRx (zeros n)) = false := by
  simp only [Instr.wellFormed, bytesFit, List.length_replicate, decide_eq_false_iff_not]
  omega

theorem test_illFormed_crcGen : Instr.wellFormed (.crcGen (zeros (2 ^ 32))) = false := (illFormed _ (Nat.le_refl _)).1

theorem test_illFormed_segEnc : Instr.wellFormed (.segEnc 1 0 0 (zeros (2 ^ 32))) = false :=
  (illFormed _ (Nat.le_refl _)).2.1

theorem test_illFormed_segDec : Instr.wellFormed (.segDec (zeros (2 ^ 32))) = false :=
  (illFormed _ (Nat.le_refl _)).2.2.1

theorem test_illFormed_leSend : Instr.wellFormed (.leSend 0 (zeros (2 ^ 32))) = false :=
  (illFormed _ (Nat.le_refl _)).2.2.2.1

theorem test_illFormed_sRx : Instr.wellFormed (.sRx (zeros (2 ^ 32))) = false :=
  (illFormed _ (Nat.le_refl _)).2.2.2.2.1

theorem test_illFormed_rRx : Instr.wellFormed (.rRx (zeros (2 ^ 32))) = false :=
  (illFormed _ (Nat.le_refl _)).2.2.2.2.2

/-! ## Decoding, from records written out by R56 and R57 (95_test_vectors.md section 2) -/

theorem test_decode_crcGen : decode [0x01, 0, 0, 0, 1, 0x61] = .ok (.crcGen [0x61]) := by decide

theorem test_decode_segEnc :
    decode [0x02, 0x03, 1, 2, 3, 4, 0x0A, 0x0B, 0x0C, 0x0D, 0, 0, 0, 2, 0x68, 0x69]
      = .ok (.segEnc 0x03 0x01020304 0x0A0B0C0D [0x68, 0x69]) := by decide

theorem test_decode_segDec : decode [0x03, 0, 0, 0, 2, 0xAB, 0xCD] = .ok (.segDec [0xAB, 0xCD]) := by decide

theorem test_decode_leDecide : decode [0x10, 0x02] = .ok (.leDecide 0x02) := by decide

theorem test_decode_leSend : decode [0x11, 0x00, 0, 0, 0, 1, 0x00] = .ok (.leSend 0x00 [0x00]) := by decide

theorem test_decode_sOpen : decode [0x20] = .ok .sOpen := by decide

theorem test_decode_sRx : decode [0x21, 0, 0, 0, 3, 7, 8, 9] = .ok (.sRx [7, 8, 9]) := by decide

theorem test_decode_sTick : decode [0x22] = .ok .sTick := by decide

theorem test_decode_rRx : decode [0x30, 0, 0, 0, 0] = .ok (.rRx []) := by decide

theorem test_decode_rClose : decode [0x31] = .ok .rClose := by decide

theorem test_decode_regRd : decode [0x40, 0x41] = .ok (.regRd 0x41) := by decide

theorem test_decode_regWr : decode [0x41, 0x34, 0xDE, 0xAD, 0xBE, 0xEF] = .ok (.regWr 0x34 0xDEADBEEF) := by decide

/-- 95_test_vectors.md section 2.8. -/
theorem test_decode_illegal :
    [[], [0x00], [0x04], [0x0F], [0x12], [0x23], [0x32], [0x42], [0xFF], [0x20, 0x00], [0x40], [0x41, 0, 0, 0, 1],
        [0x01, 0, 0, 0, 5, 0x61], [0x01, 0, 0, 0, 0, 0x61], [0x10], [0x03, 0, 0], [0x31, 0x31]].all
      (fun r => (decode r).toOption.isNone) = true := by decide

/-- A table row gives the operation code alone; the rest of the record is zeros. -/
theorem test_decodeTableWord :
    decodeTableWord 8 0x02 = some (.segEnc 0 0 0 []) ∧ decodeTableWord 8 0x22 = some .sTick
      ∧ decodeTableWord 8 0x42 = none := by decide

/-! ## Single operations (95_test_vectors.md section 2, unless another source is named) -/

theorem test_crcGen_check_value :
    resp (exec (.crcGen [0x31, 0x32, 0x33, 0x34, 0x35, 0x36, 0x37, 0x38, 0x39]) .reset)
      = some ⟨.ok, .crc 0xCBF43926⟩ := by decide +kernel

theorem test_segEnc_drops_high_flags :
    resp (exec (.segEnc 0xF1 0 0 hello) .reset) = some ⟨.ok, .frame fHello⟩ := by decide +kernel

theorem test_segDec_ignores_reserved :
    resp (exec (.segDec fReserved) .reset) = some ⟨.ok, .segment 0x01 0 0 hello⟩ := by decide +kernel

/-- The checksum is right and `LEN` says 4 with five payload bytes. -/
theorem test_segDec_rejects_wrong_length :
    resp (exec (.segDec
        [0, 0, 0, 0, 0, 0, 0, 0, 1, 0, 0, 4, 0x65, 0x4B, 0xED, 0xEF, 0x68, 0x65, 0x6C, 0x6C, 0x6F]) .reset)
      = some ⟨.corruptionDetected, .none⟩ := by decide +kernel

theorem test_leDecide_threshold_boundary :
    resp (exec (.leDecide 0) { State.reset with fwd := ⟨4, 1032, 1⟩ }) = some ⟨.ok, .verdict .pass⟩
      ∧ resp (exec (.leDecide 0) { State.reset with fwd := ⟨5, 0, 1⟩ }) = some ⟨.ok, .verdict .drop⟩
      ∧ resp (exec (.leDecide 0) { State.reset with fwd := ⟨0, 1033, 1⟩ }) = some ⟨.ok, .verdict .corrupt⟩ := by decide

theorem test_leSend_corrupts_byte_four :
    seen (fun t => (t.response, t.rev.prng)) (exec (.leSend 1 fAck5) { State.reset with rev := ⟨0, 65536, 0x12345678⟩ })
      = some (some ⟨.ok, .sent .corrupt (some
          [0, 0, 0, 0, 0xFF, 0, 0, 5, 2, 0, 0, 0, 0xE4, 0x09, 0x09, 0x67])⟩, 0x4820F4C4) := by decide +kernel

theorem test_sOpen_sends_the_syn :
    seen (fun t => (t.response, t.snd.status, t.fwd.prng))
        (exec .sOpen { State.reset with cfg := { CfgRegs.reset with rtoTicks := 10 } })
      = some (some ⟨.ok, .frames [fSyn]⟩, 0x11, 0x04080601) := by decide +kernel

theorem test_sOpen_needs_a_timeout : resp (exec .sOpen .reset) = some ⟨.refusedConfig, .none⟩ := by decide

theorem test_sRx_fills_the_window :
    seen (fun t => (t.response, t.snd.status, t.snd.next)) (exec (.sRx fSynAck) (sender .synSent 10 0 0 3))
      = some (some ⟨.ok, .frames
          [[0, 0, 0, 0, 0, 0, 0, 0, 1, 0, 0, 4, 0x63, 0x61, 0xDF, 0xE1, 0, 1, 2, 3],
           [0, 0, 0, 4, 0, 0, 0, 0, 1, 0, 0, 2, 0x81, 0x3C, 0xE1, 0xB2, 4, 5]]⟩, 0x12, 6) := by decide +kernel

/-- 42_sender.md R90. -/
theorem test_sRx_finAck_ends_the_run :
    seen (fun t => (t.response, t.snd.status)) (exec (.sRx fFinAck5) (sender .closing 5 5 5 3))
      = some (some ⟨.ok, .frames []⟩, 0x04) := by decide +kernel

theorem test_sTick_resends_from_the_base :
    seen (fun t => (t.response, t.snd.status, t.snd.tmrCnt)) (exec .sTick (sender .established 10 1 7 1))
      = some (some ⟨.ok, .frames
          [[0, 0, 0, 1, 0, 0, 0, 0, 1, 0, 0, 4, 0xD9, 0x42, 0x69, 0x7C, 1, 2, 3, 4],
           [0, 0, 0, 5, 0, 0, 0, 0, 1, 0, 0, 2, 0xB8, 0xD5, 0x5A, 0xA1, 5, 6]]⟩, 0x00010012, 3) := by decide +kernel

/-- 42_sender.md R92. -/
theorem test_sTick_exhausts_the_budget :
    let s := sender .synSent 3 0 0 1
    seen (fun t => (t.response, t.snd.status)) (exec .sTick { s with cfg := { s.cfg with maxRetry := 0 } })
      = some (some ⟨.ok, .frames []⟩, 0x08) := by decide +kernel

theorem test_rRx_syn_is_answered :
    seen (fun t => (t.response, t.rcv.status, t.rev.prng)) (exec (.rRx fSyn) .reset)
      = some (some ⟨.ok, .frames [fSynAck]⟩, 1, 0x04080601) := by decide +kernel

/-- 43_receiver.md R103. -/
theorem test_rRx_data_is_delivered :
    seen (fun t => (t.response, t.sink, t.rcv.expected)) (exec (.rRx fHello) (receiver .established 0 0))
      = some (some ⟨.ok, .frames [fAck5]⟩, hello, 5) := by decide +kernel

theorem test_rClose_ends_the_linger :
    seen (fun t => (t.response, t.rcv.status)) (exec .rClose (receiver .closing 5 0)) = some (some ⟨.ok, .none⟩, 3) := by
  decide

theorem test_rClose_refused_in_listening : resp (exec .rClose .reset) = some ⟨.refusedState, .none⟩ := by decide

theorem test_regRd_mss_and_unmapped :
    resp (exec (.regRd 0x00) .reset) = some ⟨.ok, .data 1000⟩
      ∧ resp (exec (.regRd 0x38) .reset) = some ⟨.refusedOperand, .none⟩
      ∧ resp (exec (.regRd 0x41) .reset) = some ⟨.refusedOperand, .none⟩ := by decide

theorem test_regWr_conditions :
    seen (fun t => t.cfg.mss) (exec (.regWr 0x00 0x00012345) .reset) = some 0x2345
      ∧ seen (fun t => t.fwd.lossT) (exec (.regWr 0x20 0x00010001) .reset) = some 65536
      ∧ seen (fun t => t.fwd.prng) (exec (.regWr 0x30 0) .reset) = some 1 := by decide

theorem test_regWr_locked_and_read_only :
    resp (exec (.regWr 0x1C 9) (sender .synSent 10 0 0 3)) = some ⟨.refusedLocked, .none⟩
      ∧ resp (exec (.regWr 0x98 0) .reset) = some ⟨.refusedOperand, .none⟩ := by decide

/-- 30_encoding.md R55: the response record of the `LE.SEND` that drops its frame. -/
theorem test_response_record : Response.bytes ⟨.ok, .sent .drop none⟩ = [0x00, 0x01, 0x00, 0, 0, 0, 0] := by decide

theorem test_nothing_listed_after_reset : State.reset.src.wf = true := by decide

/-! ## The hypotheses of the statements can be met -/

theorem dec_fSyn : dec fSyn = some gSyn := by decide +kernel
theorem dec_fSynAck : dec fSynAck = some gSynAck := by decide +kernel
theorem dec_fHello : dec fHello = some gHello := by decide +kernel
theorem dec_fReserved : dec fReserved = some gHello := by decide +kernel
theorem dec_fAck5 : dec fAck5 = some gAck5 := by decide +kernel
theorem dec_fFin5 : dec fFin5 = some gFin5 := by decide +kernel
theorem dec_fFinAck5 : dec fFinAck5 = some gFinAck5 := by decide +kernel
theorem dec_fNone : dec fNone = some gNone := by decide +kernel

theorem coherent_reset : State.reset.Coherent := by constructor <;> decide
theorem coherent_synSent : (sender .synSent 10 0 0 1).Coherent := by constructor <;> decide
theorem coherent_synSent_empty : (sender .synSent 0 0 0 3).Coherent := by constructor <;> decide
theorem coherent_window : (sender .established 10 0 6 1).Coherent := by constructor <;> decide
theorem coherent_last : (sender .established 5 0 5 3).Coherent := by constructor <;> decide
theorem coherent_dup : (sender .established 10 5 10 3).Coherent := by constructor <;> decide
theorem coherent_closing : (sender .closing 5 5 5 1).Coherent := by constructor <;> decide

/-- The state of `coherent_dup` after two duplicate ACKs. -/
def dupTwice : State :=
  let s := sender .established 10 5 10 3
  { s with snd := { s.snd with dupCnt := 2#2 } }

theorem coherent_dupTwice : dupTwice.Coherent := by constructor <;> decide

/-- `ESTABLISHED` with nothing outstanding: coherent, though the rules leave it for `CLOSING` at once. -/
theorem coherent_nothing_outstanding : (sender .established 5 5 5 0).Coherent := by constructor <;> decide

/-- A sender whose run ended with success. -/
def ended : State :=
  let s := sender .closed 5 5 5 0
  { s with snd := { s.snd with done := true } }

theorem coherent_ended : ended.Coherent := by constructor <;> decide

theorem test_hyp_StepRunsTheDecodedOperation :
    (State.reset.present [0x22]).inputs = [.record [0x22]] :: [] ∧ decode [0x22] = .ok .sTick := by decide

theorem test_hyp_IllegalRecordsAreRefused :
    (0x42#8).toNat ∉ [0x01, 0x02, 0x03, 0x10, 0x11, 0x20, 0x21, 0x22, 0x30, 0x31, 0x40, 0x41]
      ∧ (Instr.wellFormed .sOpen = true ∧ ([0x00] : Bytes) ≠ [])
      ∧ (Instr.wellFormed (.regRd 0x41) = true ∧ ([0x41] : Bytes) ≠ [] ∧ encode (.regRd 0x41) = [0x40] ++ [0x41])
      ∧ ((State.reset.present [0x20, 0x00]).inputs = [.record [0x20, 0x00]] :: []
        ∧ decode [0x20, 0x00] = .error .tooLong) := by decide

theorem test_hyp_DecodeOfEncodeIsTheOperation : Instr.wellFormed (.segEnc 0xF1 5 6 hello) = true := by decide

theorem test_hyp_SegEncFormatsTheFrame :
    (zeros 65535).length ≤ 65535 ∧ 65535 < (zeros 65536).length := by
  simp only [List.length_replicate]; exact ⟨Nat.le_refl _, Nat.lt_succ_self _⟩

theorem frameGood_fHello : frameGood fHello := by unfold frameGood; decide +kernel

theorem test_hyp_SegDecAcceptsExactly : frameGood fHello ∧ frameGood fNone ∧ ¬frameGood (fNone.take 15) :=
  ⟨frameGood_fHello, by unfold frameGood; decide +kernel, by unfold frameGood; decide⟩

theorem test_hyp_FormattedFramesParseBack : hello.length ≤ 65535 := by decide

/-- Both sides of the equivalence: reserved bits zero, and set. -/
theorem test_hyp_ParsedFramesFormatBack :
    dec fHello = some gHello ∧ fHello.getD 8 0 &&& 0xF0#8 = 0#8 ∧ dec fReserved = some gHello
      ∧ fReserved.getD 8 0 &&& 0xF0#8 ≠ 0#8 := ⟨dec_fHello, by decide, dec_fReserved, by decide⟩

theorem test_hyp_ReservedBitsAreIgnored : dec fReserved = some gHello := dec_fReserved

theorem test_hyp_SingleByteDamageIsDetected :
    hello.length ≤ 65535
      ∧ (0 < (enc 1 0 0 hello).length ∧ (enc 1 0 0 hello).getD 0 0xFF ≠ 0xFF)
      ∧ (20 < (enc 1 0 0 hello).length ∧ (enc 1 0 0 hello).getD 20 0x90 ≠ 0x90) := by decide +kernel

theorem test_hyp_directions : (0x00#8).toNat = 0 ∧ (0x01#8).toNat = 1 ∧ 1 < (0x02#8).toNat ∧ 1 < (0xFF#8).toNat := by
  decide

theorem test_hyp_VerdictsHavePositiveProbability :
    (InjChan.mk 5 0 1).decide.1 = .drop ∧ (InjChan.mk 0 1033 1).decide.1 = .corrupt
      ∧ (InjChan.mk 4 1032 1).decide.1 = .pass := by decide

theorem test_hyp_ZeroThresholdsPassEveryFrame : InjChan.reset.lossT = 0#17 ∧ InjChan.reset.corrT = 0#17 := by decide

theorem test_hyp_DrawsDependOnLengthsOnly : [fSyn, fHello].map List.length = [fAck5, fReserved].map List.length := by
  decide

theorem test_hyp_RegRdReadsEveryRegister :
    ((0x98#8, 0) ∈ registerMap State.reset ∧ (0x00#8, 1000) ∈ registerMap State.reset) ∧ ¬mapped 0x38 ∧ ¬mapped 0x9C
      ∧ ¬mapped 0x41 := by unfold mapped; decide

theorem test_hyp_BadAccessesAreRefused :
    (¬mapped 0x3C ∧ ¬mapped 0x01 ∧ ¬mapped 0xFC) ∧ (mapped 0x40 ∧ 0x40 ≤ (0x40#8).toNat)
      ∧ mapped 0x98 ∧ 0x40 ≤ (0x98#8).toNat := by unfold mapped; decide

theorem test_hyp_RegWrStoresTheConditionedValue :
    State.reset.snd.st = .closed ∧ (State.reset.rcv.st = .listening ∨ State.reset.rcv.st = .closed)
      ∧ (receiver .closed 5 0).snd.st = .closed ∧ (receiver .closed 5 0).rcv.st = .closed := by decide

/-- A run is active at the sender, and at the receiver; the boundary offsets of the locked range; an operation answers. -/
theorem test_hyp_LockedRegistersKeepDuringARun :
    (¬((sender .synSent 10 0 0 1).snd.st = .closed
          ∧ ((sender .synSent 10 0 0 1).rcv.st = .listening ∨ (sender .synSent 10 0 0 1).rcv.st = .closed))
        ∧ ¬((receiver .established 0 0).snd.st = .closed
          ∧ ((receiver .established 0 0).rcv.st = .listening ∨ (receiver .established 0 0).rcv.st = .closed))
        ∧ (0x00#8).toNat % 4 = 0 ∧ (0x1C#8).toNat % 4 = 0 ∧ (0x1C#8).toNat ≤ 0x1C)
      ∧ ∃ t, exec .rClose (receiver .established 0 0) = .next t := ⟨by decide, _, rfl⟩

theorem test_hyp_WrittenRegistersReadBack :
    (∃ t, exec (.regWr 0x04 5000) .reset = .next t ∧ t.response = some ⟨.ok, .none⟩) ∧ mapped 0x98
      ∧ (0x98#8) ≠ 0x04 := ⟨⟨_, rfl, rfl⟩, by unfold mapped; decide, by decide⟩

theorem test_hyp_ResetLeavesTheListedValues : mapped 0x00 ∧ mapped 0x34 ∧ mapped 0x98 := by unfold mapped; decide

theorem test_hyp_ResetInputRestoresTheRegisters :
    { ended with inputs := [[.reset]] }.inputs = [.reset] :: [] := rfl

/-- The largest legal sequence number, one more, and each refused state. -/
theorem test_hyp_OpenStartsARun :
    ((sender .synSent 10 0 0 1).snd.st ≠ .closed ∧ ended.snd.done = true)
      ∧ (State.reset.snd.st = .closed ∧ State.reset.snd.done = false ∧ State.reset.snd.fail = false
        ∧ ¬State.reset.cfg.runnable)
      ∧ ({ cfg 1 with isn := 0xFFFFFFFE }).runnable ∧ ¬({ cfg 2 with isn := 0xFFFFFFFE }).runnable := by
  unfold CfgRegs.runnable; decide

theorem test_hyp_SenderFrontEndDrops :
    State.reset.snd.st = .closed
      ∧ ((sender .synSent 10 0 0 1).snd.st ≠ .closed ∧ dec [] = none)
      ∧ (dec fHello = some gHello ∧ (sender .synSent 10 0 0 1).cfg.mss.toNat < gHello.len.toNat)
      ∧ dec fNone = some gNone ∧ gNone.flags ∉ [0x2#4, 0x6#4, 0xA#4] :=
  ⟨by decide, by decide, ⟨dec_fHello, by decide⟩, dec_fNone, by decide⟩

theorem test_hyp_SynAckOpensTheWindow :
    ((sender .synSent 0 0 0 3).Coherent ∧ (sender .synSent 0 0 0 3).cfg.totalLen = 0#32)
      ∧ ((sender .synSent 10 0 0 1).Coherent ∧ (sender .synSent 10 0 0 1).cfg.totalLen ≠ 0#32)
      ∧ (sender .synSent 10 0 0 1).snd.st = .synSent
      ∧ (dec fSynAck = some gSynAck ∧ gSynAck.len.toNat ≤ 4 ∧ gSynAck.flags = 0x6#4
        ∧ gSynAck.ack = (sender .synSent 10 0 0 1).cfg.isn)
      ∧ dec fAck5 = some gAck5 ∧ ¬(gAck5.flags = 0x6#4 ∧ gAck5.ack = 0#32) :=
  ⟨⟨coherent_synSent_empty, rfl⟩, ⟨coherent_synSent, by decide⟩, rfl, ⟨dec_fSynAck, by decide⟩, dec_fAck5, by decide⟩

theorem test_hyp_AckMovesTheWindow :
    dec fAck5 = some gAck5 ∧ gAck5.flags = 0x2#4 ∧ gAck5.len.toNat ≤ 4
      ∧ ((sender .established 10 0 6 1).Coherent ∧ 0 < gAck5.ack.toNat ∧ gAck5.ack.toNat ≤ 6
        ∧ gAck5.ack ≠ (sender .established 10 0 6 1).snd.endSeq)
      ∧ (sender .established 5 0 5 3).Coherent ∧ gAck5.ack.toNat ≤ 5
      ∧ gAck5.ack = (sender .established 5 0 5 3).snd.endSeq :=
  ⟨dec_fAck5, by decide, by decide, ⟨coherent_window, by decide⟩, coherent_last, by decide⟩

theorem test_hyp_DuplicateAcksTriggerFastRetransmit :
    dec fAck5 = some gAck5 ∧ gAck5.flags = 0x2#4 ∧ gAck5.len.toNat ≤ 4
      ∧ ((sender .established 10 5 10 3).Coherent ∧ gAck5.ack = (sender .established 10 5 10 3).snd.base
        ∧ (sender .established 10 5 10 3).snd.dupCnt ≠ 2#2)
      ∧ (dupTwice.Coherent ∧ gAck5.ack = dupTwice.snd.base ∧ dupTwice.snd.dupCnt = 2#2
        ∧ dupTwice.snd.base.toNat < dupTwice.snd.next.toNat)
      ∧ (sender .established 5 5 5 0).Coherent ∧ gAck5.ack = (sender .established 5 5 5 0).snd.base :=
  ⟨dec_fAck5, by decide, by decide, ⟨coherent_dup, by decide⟩, ⟨coherent_dupTwice, by decide⟩,
    coherent_nothing_outstanding, by decide⟩

/-- One below the base, one above the end of the outstanding range, the two other kinds. -/
theorem test_hyp_StraySegmentsAreDiscarded :
    ((sender .established 10 6 10 3).snd.st = .established ∧ (sender .established 10 0 4 3).snd.st = .established
        ∧ gAck5.len.toNat ≤ 4 ∧ gSynAck.len.toNat ≤ 4 ∧ gFinAck5.len.toNat ≤ 4)
      ∧ (dec fAck5 = some gAck5 ∧ gAck5.flags = 0x2#4 ∧ gAck5.ack.toNat < (sender .established 10 6 10 3).snd.base.toNat
        ∧ (sender .established 10 0 4 3).snd.next.toNat < gAck5.ack.toNat)
      ∧ (dec fSynAck = some gSynAck ∧ gSynAck.flags = 0x6#4) ∧ dec fFinAck5 = some gFinAck5 ∧ gFinAck5.flags = 0xA#4 :=
  ⟨by decide, ⟨dec_fAck5, by decide⟩, ⟨dec_fSynAck, by decide⟩, dec_fFinAck5, by decide⟩

theorem test_hyp_FinAckEndsTheRun :
    (sender .closing 5 5 5 1).snd.st = .closing
      ∧ (dec fFinAck5 = some gFinAck5 ∧ gFinAck5.flags = 0xA#4 ∧ gFinAck5.ack = (sender .closing 5 5 5 1).snd.base)
      ∧ dec fAck5 = some gAck5 ∧ ¬(gAck5.flags = 0xA#4 ∧ gAck5.ack = (sender .closing 5 5 5 1).snd.base) :=
  ⟨rfl, ⟨dec_fFinAck5, by decide⟩, dec_fAck5, by decide⟩

theorem test_hyp_TickCountsDown :
    State.reset.snd.armed = false
      ∧ (sender .closing 5 5 5 2).snd.armed = true ∧ 1 < (sender .closing 5 5 5 2).snd.tmrCnt.toNat := by decide

theorem test_hyp_ExpiryResendsFromTheBase :
    ((sender .synSent 10 0 0 1).Coherent ∧ (sender .established 10 0 6 1).Coherent ∧ (sender .closing 5 5 5 1).Coherent)
      ∧ (sender .established 10 0 6 1).snd.armed = true ∧ (sender .established 10 0 6 1).snd.tmrCnt = 1#32
      ∧ (sender .established 10 0 6 1).snd.retry ≠ (sender .established 10 0 6 1).cfg.maxRetry :=
  ⟨⟨coherent_synSent, coherent_window, coherent_closing⟩, by decide⟩

/-- An active sender whose budget is spent. -/
def spent : State :=
  let s := sender .established 10 0 6 1
  { s with snd := { s.snd with retry := 5#16 } }

theorem coherent_spent : spent.Coherent := by constructor <;> decide

theorem test_hyp_ExhaustionFailsTheRun :
    spent.snd.armed = true ∧ spent.snd.tmrCnt = 1#32 ∧ spent.snd.retry = spent.cfg.maxRetry := by decide

theorem test_hyp_SenderFollowsItsTransitionTable :
    (sender .synSent 10 0 0 1).Coherent ∧ spent.Coherent ∧ ∃ t, exec .sOpen spent = .next t :=
  ⟨coherent_synSent, coherent_spent, _, rfl⟩

/-- The frame that sets `SND_DONE`, and the tick that sets `SND_FAIL`; each operation answers. -/
theorem test_hyp_SenderFlagsAreSticky :
    (dec fFinAck5 = some gFinAck5 ∧ gFinAck5.len.toNat ≤ (sender .closing 5 5 5 1).cfg.mss.toNat
        ∧ gFinAck5.flags = 0xA#4 ∧ gFinAck5.ack = (sender .closing 5 5 5 1).snd.base
        ∧ seen (fun t => t.snd.done) (exec (.sRx fFinAck5) (sender .closing 5 5 5 1)) = some true)
      ∧ seen (fun t => t.snd.fail) (exec .sTick spent) = some true :=
  ⟨⟨dec_fFinAck5, by decide, by decide, by decide, by decide +kernel⟩, by decide⟩

/-- For every statement about any operation that answers: ReceiverFollowsItsTransitionTable,
SinkOnlyGrowsAtTheCursor, NonOkOutcomesChangeNothing, UnitsChangeOnlyTheirOwnState, EnginesCommute. -/
theorem test_hyp_an_operation_answers :
    (∃ t, exec .sTick State.reset = .next t) ∧ (∃ t, exec .rClose State.reset = .next t)
      ∧ (∃ t, exec (.regWr 0x00 5) State.reset = .next t) ∧ isSenderOp .sTick = true ∧ isReceiverOp .rClose = true
      ∧ isSenderOp (.regWr 0x00 5) = false ∧ isReceiverOp (.regWr 0x00 5) = false :=
  ⟨⟨_, rfl⟩, ⟨_, rfl⟩, ⟨_, rfl⟩, rfl, rfl, rfl, rfl⟩

theorem test_hyp_EndedRunStaysInactive :
    ended.Coherent ∧ ended.snd.done = true ∧ ∃ t, exec .rClose ended = .next t := ⟨coherent_ended, rfl, _, rfl⟩

theorem test_hyp_TicksAloneExhaustTheBudget :
    (sender .established 10 0 6 1).Coherent ∧ (sender .established 10 0 6 1).snd.armed = true
      ∧ 15 < (sender .established 10 0 6 1).snd.tmrCnt.toNat + 5 * 3 := ⟨coherent_window, by decide⟩

theorem test_hyp_ReceiverFrontEndDrops :
    (receiver .closed 5 0).rcv.st = .closed ∧ (State.reset.rcv.st ≠ .closed ∧ dec [] = none)
      ∧ (dec fHello = some gHello ∧ { State.reset with cfg := cfg 0 }.cfg.mss.toNat < gHello.len.toNat)
      ∧ dec fAck5 = some gAck5 ∧ gAck5.flags ∉ [0x1#4, 0x3#4, 0x4#4, 0x8#4] :=
  ⟨by decide, by decide, ⟨dec_fHello, by decide⟩, dec_fAck5, by decide⟩

theorem test_hyp_SynIsAccepted :
    State.reset.rcv.st = .listening ∧ (dec fSyn = some gSyn ∧ gSyn.flags = 0x4#4)
      ∧ dec fHello = some gHello ∧ gHello.len.toNat ≤ State.reset.cfg.mss.toNat ∧ gHello.flags ≠ 0x4#4 :=
  ⟨rfl, ⟨dec_fSyn, rfl⟩, dec_fHello, by decide⟩

/-- `DATA seq = 2^32 - 6`, five bytes: with the cursor there it ends exactly at 2^32 - 1; one further it does not fit. -/
theorem test_hyp_DataIsDeliveredInOrder :
    (receiver .established 0 0).rcv.st = .established
      ∧ (dec fHello = some gHello ∧ gHello.len.toNat ≤ State.reset.cfg.mss.toNat ∧ gHello.flags = 0x1#4
        ∧ gHello.seq = (receiver .established 0 0).rcv.expected)
      ∧ (∃ f g, dec f = some g ∧ g.flags = 0x1#4 ∧ g.seq = (receiver .established 0xFFFFFFFA 0).rcv.expected
        ∧ (receiver .established 0xFFFFFFFA 0).rcv.expected.toNat + g.len.toNat = 2 ^ 32 - 1)
      ∧ (∃ f g, dec f = some g ∧ g.flags = 0x3#4 ∧ g.seq = (receiver .established 0xFFFFFFFB 0).rcv.expected
        ∧ (receiver .established 0xFFFFFFFB 0).rcv.expected.toNat + g.len.toNat = 2 ^ 32)
      ∧ gHello.seq.toNat < (receiver .established 1 0).rcv.expected.toNat
      ∧ ∃ f g, dec f = some g ∧ g.flags = 0x1#4 ∧ (receiver .established 0 0).rcv.expected.toNat < g.seq.toNat := by
  refine ⟨rfl, ⟨dec_fHello, by decide⟩,
    ⟨enc 1 0xFFFFFFFA 0 hello, ⟨1, 0xFFFFFFFA, 0, 5, hello⟩, by decide +kernel⟩,
    ⟨enc 3 0xFFFFFFFB 0 hello, ⟨3, 0xFFFFFFFB, 0, 5, hello⟩, by decide +kernel⟩, by decide,
    ⟨enc 1 1 0 hello, ⟨1, 1, 0, 5, hello⟩, by decide +kernel⟩⟩

theorem test_hyp_RepeatedSynIsAnswered :
    (receiver .established 5 0).rcv.st = .established ∧ dec fSyn = some gSyn ∧ gSyn.flags = 0x4#4
      ∧ gSyn.seq = (receiver .established 5 0).rcv.irs ∧ gSyn.seq ≠ (receiver .established 5 1).rcv.irs :=
  ⟨rfl, dec_fSyn, by decide⟩

theorem test_hyp_FinAtTheCursorIsAccepted :
    (receiver .established 5 0).rcv.st = .established ∧ dec fFin5 = some gFin5 ∧ gFin5.flags = 0x8#4
      ∧ gFin5.seq = (receiver .established 5 0).rcv.expected
      ∧ gFin5.seq ≠ (receiver .established 4 0).rcv.expected := ⟨rfl, dec_fFin5, by decide⟩

theorem test_hyp_LingerAnswersTheFin :
    (receiver .closing 5 0).rcv.st = .closing
      ∧ (dec fFin5 = some gFin5 ∧ gFin5.flags = 0x8#4 ∧ gFin5.seq = (receiver .closing 5 0).rcv.expected)
      ∧ dec fHello = some gHello ∧ gHello.len.toNat ≤ State.reset.cfg.mss.toNat ∧ ¬(gHello.flags = 0x8#4 ∧ gHello.seq = (receiver .closing 5 0).rcv.expected) :=
  ⟨rfl, ⟨dec_fFin5, by decide⟩, dec_fHello, by decide⟩

theorem test_hyp_CloseEndsTheLinger : (receiver .closing 5 0).rcv.st = .closing ∧ State.reset.rcv.st ≠ .closing := by
  decide

theorem test_hyp_SinkStaysAPrefixOfTheSource :
    let s := receiver .established 0 0
    let src := fun k => hello.getD k 0x00
    s.Coherent ∧ s.SinkMatches ∧ s.SinkHolds src
      ∧ (∀ g, dec fHello = some g → g.payload = (List.range g.len.toNat).map fun k => src (g.seq.toNat - 0 + k))
      ∧ ∃ t, exec (.rRx fHello) s = .next t := by
  refine ⟨by constructor <;> decide, rfl, rfl, ?_, _, rfl⟩
  intro g hg
  rw [dec_fHello] at hg
  cases hg
  decide

theorem test_hyp_AnyFrameIsAnsweredOk : State.reset.Coherent ∧ spent.Coherent := ⟨coherent_reset, coherent_spent⟩

/-- A tick, a frame for the sender and two frames for the receiver at one instant. -/
theorem test_hyp_ArbiterTakesAnAllowedInput :
    let now : List Input := [.record [0x22], .record [0x21, 0, 0, 0, 0], .record [0x30, 0, 0, 0, 0], .record [0x30, 0, 0, 0, 0]]
    { State.reset with inputs := [now] }.inputs = now :: [] ∧ now ≠ [] ∧ eligibles now = [1, 2] := by decide

theorem test_hyp_FrameIsPerformedBeforeTick :
    bytesFit fAck5
      ∧ { State.reset with inputs := [[.record (encode .sTick), .record (encode (.sRx fAck5))]] }.inputs
        = [.record (encode .sTick), .record (encode (.sRx fAck5))] :: [] := by decide

/-- A sender whose run failed after two resends, with the host about to write 0 to `CFG_MAX_RETRY`. -/
def failed : State :=
  let s := sender .closed 5 0 5 0
  { s with
    cfg := { s.cfg with maxRetry := 2#16 }, snd := { s.snd with fail := true, retry := 2#16 }
    inputs := [[.record [0x41, 0x0C, 0, 0, 0, 0]]] }

/-- The first state is before a step that keeps item 6 of R39, the second before the step that does not. -/
theorem test_hyp_StepKeepsCoherent :
    ((State.reset.present [0x22]).Coherent ∧ (State.reset.present [0x22]).RetryBounded
      ∧ ∃ t, step (State.reset.present [0x22]) = .next t)
      ∧ failed.Coherent ∧ failed.RetryBounded ∧ ∃ t, step failed = .next t ∧ failed.LowersRetryBudget t :=
  ⟨⟨by constructor <;> decide, by constructor <;> decide, _, rfl⟩, by constructor <;> decide,
    by constructor <;> decide, _, rfl, rfl,
    _, [], [0x41, 0x0C, 0, 0, 0, 0], 0#32, rfl, List.mem_singleton_self _, by decide, by decide, by decide, rfl⟩

theorem test_hyp_CoherentStepsHaveANextState : State.reset.Coherent ∧ State.reset.NoNewRun :=
  ⟨coherent_reset, by intro now h; cases h⟩

theorem test_hyp_StepKeepsTheSinkLength :
    let s := State.reset.present [0x22]
    s.Coherent ∧ s.OnlyRecords ∧ s.SinkMatches ∧ ∃ t, step s = .next t := by
  refine ⟨by constructor <;> decide, ?_, rfl, _, rfl⟩
  intro now h x hx
  obtain rfl : now = [.record [0x22]] := by simpa [State.present, State.reset] using h
  exact ⟨[0x22], by simpa using hx⟩

theorem test_hyp_SourceIsStable :
    (State.reset.NoNewRun ∧ ∃ t, step State.reset = .next t)
      ∧ { State.reset with inputs := [[.newRun hello]] }.inputs = [.newRun hello] :: []
      ∧ State.reset.snd.st = .closed ∧ State.reset.rcv.st = .listening ∧ 5 ≤ hello.length :=
  ⟨⟨fun _ h => (nomatch h), _, rfl⟩, by decide⟩

theorem test_hyp_RetryBoundOutlivesTheRun :
    (ended.present [0x22]).Coherent ∧ ended.snd.retry.toNat ≤ ended.cfg.maxRetry.toNat
      ∧ ∃ t, step (ended.present [0x22]) = .next t := ⟨by constructor <;> decide, by decide, _, rfl⟩

end Sys2Proof.Tests
end

section
/-! SUPPORT. The register space once more as a map of names to offsets (10_state.md R36). -/

namespace Sys2Proof.Machine

/-- The byte offset of a register (R36). -/
def Csr.offset : Csr → Byte
  | .cfgMss => 0x00#8
  | .cfgMaxWin => 0x04#8
  | .cfgRtoTicks => 0x08#8
  | .cfgMaxRetry => 0x0C#8
  | .cfgIsn => 0x10#8
  | .cfgTotalLen => 0x14#8
  | .cfgLocalPort => 0x18#8
  | .cfgRemotePort => 0x1C#8
  | .leFlpT => 0x20#8
  | .leFcpT => 0x24#8
  | .leRlpT => 0x28#8
  | .leRcpT => 0x2C#8
  | .lePrngFwd => 0x30#8
  | .lePrngRev => 0x34#8
  | .sndStatus => 0x40#8
  | .sndBase => 0x44#8
  | .sndNext => 0x48#8
  | .sndEnd => 0x4C#8
  | .sndTmrCnt => 0x50#8
  | .rcvStatus => 0x54#8
  | .rcvExpected => 0x58#8
  | .rcvIrs => 0x5C#8
  | .sndCnt .segSent => 0x60#8
  | .sndCnt .segRcvd => 0x64#8
  | .sndCnt .retxTo => 0x68#8
  | .sndCnt .retxFast => 0x6C#8
  | .sndCnt .corrupt => 0x70#8
  | .sndCnt .dupAck => 0x74#8
  | .sndCnt .discard => 0x78#8
  | .sndCnt .bytes => 0x7C#8
  | .rcvCnt .segSent => 0x80#8
  | .rcvCnt .segRcvd => 0x84#8
  | .rcvCnt .corrupt => 0x88#8
  | .rcvCnt .dup => 0x8C#8
  | .rcvCnt .ahead => 0x90#8
  | .rcvCnt .discard => 0x94#8
  | .rcvCnt .bytes => 0x98#8

@[simp] theorem csrAt_offset (r : Csr) : csrAt r.offset = some r := by
  cases r with
  | sndCnt c => cases c <;> rfl
  | rcvCnt c => cases c <;> rfl
  | _ => rfl

/-- The offsets of the CSR space are exactly those of the registers (R36, R117). -/
theorem csrAt_eq_some {addr : Byte} {r : Csr} : csrAt addr = some r ↔ addr = r.offset := by
  refine ⟨fun h => ?_, fun h => h ▸ csrAt_offset r⟩
  have inverse : ∀ a : Byte, ∀ q ∈ csrAt a, q.offset = a := by decide
  exact (inverse addr r h).symm

/-- An offset is mapped exactly where a register stands (R36). -/
theorem mapped_iff_offset {addr : Byte} : mapped addr ↔ ∃ r : Csr, addr = r.offset := by
  have names : ∀ a : Byte, mapped a ↔ (csrAt a).isSome = true := by unfold mapped; decide
  rw [names, Option.isSome_iff_exists]
  simp only [csrAt_eq_some]

/-- The locked registers are the ones below offset 0x20 (R36, R37). -/
theorem Csr.access_eq_rwLocked_iff (r : Csr) : r.access = .rwLocked ↔ r.offset.toNat ≤ 0x1C := by
  cases r with
  | sndCnt c => cases c <;> decide
  | rcvCnt c => cases c <;> decide
  | _ => decide

end Sys2Proof.Machine
end

section
/-! SUPPORT. The generator of the injector never reaches zero and the thresholds stay legal (10_state.md R39 item 9,
R27). -/

namespace Sys2Proof.Machine

/-- A left shift that is added to a word does not cancel it: the lowest set bit stays. -/
theorem xor_shiftLeft_ne_zero {s : Word} {k : Nat} (hk : 0 < k) (hs : s ≠ 0#32) : s ^^^ (s <<< k) ≠ 0#32 := by
  intro h
  have same : s = s <<< k := BitVec.xor_eq_zero_iff.mp h
  refine hs (BitVec.eq_of_getLsbD_eq fun i hi => ?_)
  induction i using Nat.strong_induction_on with
  | _ i ih =>
    rw [same, BitVec.getLsbD_shiftLeft]
    by_cases hik : i < k
    · simp [hik]
    · simp [ih (i - k) (by omega) (by omega)]

/-- A right shift that is added to a word does not cancel it: the highest set bit stays. -/
theorem xor_ushiftRight_ne_zero {s : Word} {k : Nat} (hk : 0 < k) (hs : s ≠ 0#32) : s ^^^ (s >>> k) ≠ 0#32 := by
  intro h
  have same : s.toNat = s.toNat / 2 ^ k := by
    conv_lhs => rw [BitVec.xor_eq_zero_iff.mp h, BitVec.toNat_ushiftRight, Nat.shiftRight_eq_div_pow]
  have pos : 0 < s.toNat := Nat.pos_of_ne_zero fun h0 => hs (BitVec.eq_of_toNat_eq h0)
  exact (Nat.div_lt_self pos (Nat.one_lt_two_pow hk.ne')).ne same.symm

/-- The generator keeps a state that is not zero (R70). -/
theorem prngNext_ne_zero {s : Word} (h : s ≠ 0#32) : prngNext s ≠ 0#32 :=
  xor_shiftLeft_ne_zero (by decide) (xor_ushiftRight_ne_zero (by decide) (xor_shiftLeft_ne_zero (by decide) h))

/-- The laws of one channel of the injector: R39 item 9 for its generator, R27 for its thresholds. -/
structure InjChan.Legal (c : InjChan) : Prop where
  seed : c.prng ≠ 0#32
  loss : c.lossT.toNat ≤ 65536
  corruption : c.corrT.toNat ≤ 65536

theorem InjChan.legal_reset : InjChan.reset.Legal := by constructor <;> decide

theorem InjChan.Legal.draw {c : InjChan} (h : c.Legal) : c.draw.Legal :=
  ⟨prngNext_ne_zero h.seed, h.loss, h.corruption⟩

theorem InjChan.Legal.decide {c : InjChan} (h : c.Legal) : c.decide.2.Legal := by
  rcases c.decide_cases with ⟨-, e⟩ | ⟨-, -, e⟩ | ⟨-, -, e⟩ <;> rw [e]
  · exact h.draw
  · exact h.draw.draw
  · exact h.draw.draw

theorem InjChan.Legal.send {c : InjChan} (h : c.Legal) (f : Bytes) : (c.send f).2.2.Legal := by
  rcases c.send_cases f with ⟨-, e⟩ | ⟨-, -, -, e⟩ | ⟨-, -, -, e⟩ | ⟨-, -, e⟩ <;> rw [e]
  · exact h.draw
  · exact h.draw.draw
  · exact h.draw.draw.draw
  · exact h.draw.draw

theorem clampThreshold_le (data : Word) : (clampThreshold data).toNat ≤ 65536 := by
  have hmin : min data.toNat Config.alwaysFires ≤ 65536 := Nat.min_le_right _ _
  rw [clampThreshold, BitVec.toNat_ofNat, Nat.mod_eq_of_lt (by omega)]
  exact hmin

theorem conditionSeed_ne_zero (data : Word) : conditionSeed data ≠ 0#32 := by
  unfold conditionSeed
  split
  · decide
  · assumption

end Sys2Proof.Machine
end

section
/-! SUPPORT. What an operation can do, said once: the units without an engine (R61, R73, R74, R115, R116), the
receiver's operations, the sender's operations; and what each leaves unchanged. -/

namespace Sys2Proof.Machine

/-! ### Writes of a register (R116, R118) -/

@[simp] theorem State.writeCsr_snd (s : State) (d : Word) (r : Csr) : (s.writeCsr d r).snd = s.snd := by
  cases r <;> rfl

@[simp] theorem State.writeCsr_rcv (s : State) (d : Word) (r : Csr) : (s.writeCsr d r).rcv = s.rcv := by
  cases r <;> rfl

@[simp] theorem State.writeCsr_src (s : State) (d : Word) (r : Csr) : (s.writeCsr d r).src = s.src := by
  cases r <;> rfl

@[simp] theorem State.writeCsr_sink (s : State) (d : Word) (r : Csr) : (s.writeCsr d r).sink = s.sink := by
  cases r <;> rfl

@[simp] theorem State.writeCsr_inputs (s : State) (d : Word) (r : Csr) : (s.writeCsr d r).inputs = s.inputs := by
  cases r <;> rfl

/-- Only a locked register holds configuration (R36, R37). -/
theorem State.writeCsr_cfg (s : State) (d : Word) {r : Csr} (h : r.access ≠ .rwLocked) :
    (s.writeCsr d r).cfg = s.cfg := by
  cases r with
  | cfgMss | cfgMaxWin | cfgRtoTicks | cfgMaxRetry | cfgIsn | cfgTotalLen | cfgLocalPort | cfgRemotePort =>
    exact absurd rfl h
  | _ => rfl

/-- Only a write of `CFG_MAX_RETRY` changes the retry budget (R118). -/
theorem State.writeCsr_maxRetry (s : State) (d : Word) {r : Csr} (h : r ≠ .cfgMaxRetry) :
    (s.writeCsr d r).cfg.maxRetry = s.cfg.maxRetry := by
  cases r with
  | cfgMaxRetry => exact absurd rfl h
  | _ => rfl

theorem State.writeCsr_fwd_legal {s : State} (h : s.fwd.Legal) (d : Word) (r : Csr) : (s.writeCsr d r).fwd.Legal := by
  cases r with
  | leFlpT => exact ⟨h.seed, clampThreshold_le d, h.corruption⟩
  | leFcpT => exact ⟨h.seed, h.loss, clampThreshold_le d⟩
  | lePrngFwd => exact ⟨conditionSeed_ne_zero d, h.loss, h.corruption⟩
  | _ => exact h

theorem State.writeCsr_rev_legal {s : State} (h : s.rev.Legal) (d : Word) (r : Csr) : (s.writeCsr d r).rev.Legal := by
  cases r with
  | leRlpT => exact ⟨h.seed, clampThreshold_le d, h.corruption⟩
  | leRcpT => exact ⟨h.seed, h.loss, clampThreshold_le d⟩
  | lePrngRev => exact ⟨conditionSeed_ne_zero d, h.loss, h.corruption⟩
  | _ => exact h

theorem execRegWr_refused {s : State} {addr : Byte} (d : Word) (h : csrAt addr = none) :
    execRegWr addr d s = s.raise .refusedOperand := by
  simp [execRegWr, h]

theorem execRegWr_ro (s : State) (d : Word) {r : Csr} (h : r.access = .ro) :
    execRegWr r.offset d s = s.raise .refusedOperand := by
  simp [execRegWr, h]

theorem execRegWr_rw (s : State) (d : Word) {r : Csr} (h : r.access = .rw) :
    execRegWr r.offset d s = .next ((s.writeCsr d r).answer .none) := by
  simp [execRegWr, h]

/-- R37, R116: the lock decides a write to a configuration register. -/
theorem execRegWr_rwLocked (s : State) (d : Word) {r : Csr} (h : r.access = .rwLocked) :
    execRegWr r.offset d s
      = if s.unlocked then .next ((s.writeCsr d r).answer .none) else s.raise .refusedLocked := by
  simp [execRegWr, h]

/-- No run is active (R37). -/
theorem State.unlocked_iff (s : State) :
    s.unlocked = true ↔ s.snd.st = .closed ∧ (s.rcv.st = .listening ∨ s.rcv.st = .closed) := by
  simp [State.unlocked]

/-! ### The operations without an engine -/

/-- What an operation of the codec, the injector or the register access can do, its response apart: nothing (reads,
computations and refusals), draws of one channel, or one accepted write. -/
inductive UnitEffect (i : Instr) (s : State) : State → Prop
  | nothing : UnitEffect i s s
  | decided (d : Dir) : UnitEffect i s (s.setChan d (s.chan d).decide.2)
  | sent (d : Dir) (f : Bytes) : UnitEffect i s (s.setChan d ((s.chan d).send f).2.2)
  | written (r : Csr) (data : Word) (operation : i = .regWr r.offset data)
      (lock : r.access = .rwLocked → s.unlocked = true) : UnitEffect i s (s.writeCsr data r)

theorem execRegWr_effect (s : State) (addr : Byte) (data : Word) :
    ∃ t r, UnitEffect (.regWr addr data) s t ∧ execRegWr addr data s = .next { t with response := some r } := by
  cases ha : csrAt addr with
  | none => exact ⟨s, _, .nothing, execRegWr_refused data ha⟩
  | some r =>
    obtain rfl := csrAt_eq_some.mp ha
    cases hr : r.access with
    | ro => exact ⟨s, _, .nothing, execRegWr_ro s data hr⟩
    | rw => exact ⟨_, _, .written r data rfl (by simp [hr]), execRegWr_rw s data hr⟩
    | rwLocked =>
      cases hu : s.unlocked with
      | true => exact ⟨_, _, .written r data rfl fun _ => hu, by rw [execRegWr_rwLocked s data hr, hu]; rfl⟩
      | false => exact ⟨s, _, .nothing, by rw [execRegWr_rwLocked s data hr, hu]; rfl⟩

/-- Every operation without an engine ends in a next state, with one of the effects above. -/
theorem exec_unit_effect {i : Instr} (hs : isSenderOp i = false) (hr : isReceiverOp i = false) (s : State) :
    ∃ t r, UnitEffect i s t ∧ exec i s = .next { t with response := some r } := by
  cases i with
  | crcGen data => exact ⟨s, _, .nothing, rfl⟩
  | segEnc flags seq ack payload =>
    by_cases h : payload.length > Config.maxPayload
    · exact ⟨s, _, .nothing, by simp only [exec, execSegEnc, if_pos h]; rfl⟩
    · exact ⟨s, _, .nothing, by simp only [exec, execSegEnc, if_neg h]; rfl⟩
  | segDec frame =>
    cases h : dec frame with
    | none => exact ⟨s, _, .nothing, by simp only [exec, execSegDec, h]; rfl⟩
    | some g => exact ⟨s, _, .nothing, by simp only [exec, execSegDec, h]; rfl⟩
  | leDecide dir =>
    cases h : dirOf dir with
    | none => exact ⟨s, _, .nothing, by simp only [exec, execLeDecide, h]; rfl⟩
    | some d => exact ⟨_, _, .decided d, by simp only [exec, execLeDecide, h]; rfl⟩
  | leSend dir frame =>
    cases h : dirOf dir with
    | none => exact ⟨s, _, .nothing, by simp only [exec, execLeSend, h]; rfl⟩
    | some d => exact ⟨_, _, .sent d frame, by simp only [exec, execLeSend, h]; rfl⟩
  | regRd addr =>
    cases h : csrAt addr with
    | none => exact ⟨s, _, .nothing, by simp only [exec, execRegRd, h]; rfl⟩
    | some r => exact ⟨s, _, .nothing, by simp only [exec, execRegRd, h]; rfl⟩
  | regWr addr data => exact execRegWr_effect s addr data
  | sOpen => cases hs
  | sRx frame => cases hs
  | sTick => cases hs
  | rRx frame => cases hr
  | rClose => cases hr

/-- Two states agree in what the units without an engine never write (R61, R129). -/
structure UnitFrame (s t : State) : Prop where
  snd : t.snd = s.snd
  rcv : t.rcv = s.rcv
  src : t.src = s.src
  sink : t.sink = s.sink
  inputs : t.inputs = s.inputs

theorem UnitEffect.frame {i : Instr} {s t : State} (h : UnitEffect i s t) : UnitFrame s t := by
  cases h with
  | nothing => exact ⟨rfl, rfl, rfl, rfl, rfl⟩
  | decided d => cases d <;> exact ⟨rfl, rfl, rfl, rfl, rfl⟩
  | sent d f => cases d <;> exact ⟨rfl, rfl, rfl, rfl, rfl⟩
  | written r data => constructor <;> simp

/-- While a run is active the units without an engine keep the configuration (R37). -/
theorem UnitEffect.cfg_of_locked {i : Instr} {s t : State} (h : UnitEffect i s t) (hl : s.unlocked = false) :
    t.cfg = s.cfg := by
  cases h with
  | nothing => rfl
  | decided d => cases d <;> rfl
  | sent d f => cases d <;> rfl
  | written r data _ lock =>
    refine State.writeCsr_cfg s data fun hr => ?_
    rw [lock hr] at hl
    cases hl

/-- The units without an engine keep the laws of the injector. -/
theorem UnitEffect.legal {i : Instr} {s t : State} (h : UnitEffect i s t) (hf : s.fwd.Legal) (hr : s.rev.Legal) :
    t.fwd.Legal ∧ t.rev.Legal := by
  cases h with
  | nothing => exact ⟨hf, hr⟩
  | decided d =>
    cases d with
    | fwd => exact ⟨hf.decide, hr⟩
    | rev => exact ⟨hf, hr.decide⟩
  | sent d f =>
    cases d with
    | fwd => exact ⟨hf.send f, hr⟩
    | rev => exact ⟨hf, hr.send f⟩
  | written r data => exact ⟨State.writeCsr_fwd_legal hf data r, State.writeCsr_rev_legal hr data r⟩

/-! ### The receiver's operations -/

theorem execRRx_closed {s : State} (f : Bytes) (h : s.rcv.st = .closed) : execRRx f s = s.answerRcv s := by
  simp [execRRx, h]

theorem execRRx_active {s : State} (f : Bytes) (h : s.rcv.st ≠ .closed) :
    execRRx f s = s.answerRcv ((s.countR .segRcvd).rxRcvFrame f) := by
  simp [execRRx, h]

theorem execRClose_refused {s : State} (h : s.rcv.st ≠ .closing) : execRClose s = s.raise .refusedState := by
  simp [execRClose, h]

theorem execRClose_closing {s : State} (h : s.rcv.st = .closing) :
    execRClose s = .next ((s.setRcv { s.rcv with st := .closed }).answer .none) := by
  simp [execRClose, h]

theorem execRRx_frame (s : State) (f : Bytes) : ∃ t, execRRx f s = .next t ∧ ReceiverFrame s t := by
  by_cases h : s.rcv.st = .closed
  · exact ⟨_, execRRx_closed f h, (ReceiverFrame.refl s).answer _⟩
  · exact ⟨_, execRRx_active f h, ((s.countR_frame _ _).trans (State.rxRcvFrame_frame _ f)).answer _⟩

theorem execRClose_frame (s : State) : ∃ t, execRClose s = .next t ∧ ReceiverFrame s t := by
  by_cases h : s.rcv.st = .closing
  · exact ⟨_, execRClose_closing h, (s.setRcv_frame _).answer _⟩
  · exact ⟨_, execRClose_refused h, by constructor <;> simp⟩

/-- A receiver operation ends in a next state and writes nothing outside the receiver (R8, R129). -/
theorem exec_receiver_frame {i : Instr} (hi : isReceiverOp i = true) (s : State) :
    ∃ t, exec i s = .next t ∧ ReceiverFrame s t := by
  cases i with
  | rRx f => exact execRRx_frame s f
  | rClose => exact execRClose_frame s
  | _ => cases hi

/-! ### The sender's operations -/

@[simp] theorem State.answerSnd_ok (s t : State) :
    s.answerSnd (.ok t) = .next (t.answer (.frames (t.sndOut.drop s.sndOut.length))) := rfl

theorem execSRx_closed {s : State} (f : Bytes) (h : s.snd.st = .closed) : execSRx f s = s.answerSnd (.ok s) := by
  simp [execSRx, h]

theorem execSRx_active {s : State} (f : Bytes) (h : s.snd.st ≠ .closed) :
    execSRx f s = s.answerSnd ((s.countS .segRcvd).rxSndFrame f) := by
  simp [execSRx, h]

theorem execSTick_disarmed {s : State} (h : s.snd.armed = false) : execSTick s = s.answerSnd (.ok s) := by
  simp [execSTick, h]

theorem execSTick_armed {s : State} (h : s.snd.armed = true) : execSTick s = s.answerSnd s.tick := by
  simp [execSTick, h]

/-- `S.OPEN` takes its operation's effect for a sender that has not run and a runnable configuration (R83). -/
theorem execSOpen_cases (s : State) :
    (∃ o, execSOpen s = s.raise o)
      ∨ (s.snd.st = .closed ∧ s.snd.done = false ∧ s.snd.fail = false ∧ s.cfg.runnable
        ∧ execSOpen s
          = s.answerSnd (.ok ((s.sendControl flagSyn s.cfg.isn).setSnd (s.snd.opened s.cfg)).arm)) := by
  have hmax : Config.maxSeq = 2 ^ 32 - 1 := rfl
  unfold execSOpen
  split
  · exact .inl ⟨_, rfl⟩
  · next hst =>
    split
    · exact .inl ⟨_, rfl⟩
    · next hcfg =>
      simp only [not_or, Bool.not_eq_true, not_not] at hst hcfg
      obtain ⟨hclosed, hdone, hfail⟩ := hst
      obtain ⟨hmss, hwin, hrto, hend⟩ := hcfg
      exact .inr ⟨hclosed, hdone, hfail, ⟨hmss, hwin, hrto, by omega⟩, rfl⟩

/-- `S.RX` where it answers: a closed sender ignores the frame, any other counts it and acts on it (R84). -/
theorem execSRx_eq_next {s t : State} {f : Bytes} (h : execSRx f s = .next t) :
    (s.snd.st = .closed ∧ ∃ r, t = s.answer r)
      ∨ (s.snd.st ≠ .closed ∧ ∃ u r, (s.countS .segRcvd).rxSndFrame f = .ok u ∧ t = u.answer r) := by
  by_cases hc : s.snd.st = .closed
  · rw [execSRx_closed f hc] at h
    obtain ⟨u, hu, rfl⟩ := State.answerSnd_eq_next h
    cases hu
    exact .inl ⟨hc, _, rfl⟩
  · rw [execSRx_active f hc] at h
    obtain ⟨u, hu, rfl⟩ := State.answerSnd_eq_next h
    exact .inr ⟨hc, u, _, hu, rfl⟩

/-- `S.TICK` where it answers: only an armed timer counts (R91). -/
theorem execSTick_eq_next {s t : State} (h : execSTick s = .next t) :
    (s.snd.armed = false ∧ ∃ r, t = s.answer r)
      ∨ (s.snd.armed = true ∧ ∃ u r, s.tick = .ok u ∧ t = u.answer r) := by
  cases ha : s.snd.armed with
  | false =>
    rw [execSTick_disarmed ha] at h
    obtain ⟨u, hu, rfl⟩ := State.answerSnd_eq_next h
    cases hu
    exact .inl ⟨rfl, _, rfl⟩
  | true =>
    rw [execSTick_armed ha] at h
    obtain ⟨u, hu, rfl⟩ := State.answerSnd_eq_next h
    exact .inr ⟨rfl, u, _, hu, rfl⟩

theorem State.raise_senderFrame {s t : State} {o : OutcomeCode} (h : s.raise o = .next t) : SenderFrame s t := by
  cases h
  constructor <;> simp

/-- A sender operation that answers writes nothing outside the sender (R8, R129). -/
theorem exec_sender_frame {i : Instr} {s t : State} (hi : isSenderOp i = true) (h : exec i s = .next t) :
    SenderFrame s t := by
  cases i with
  | sOpen =>
    rcases execSOpen_cases s with ⟨o, e⟩ | ⟨-, -, -, -, e⟩
    · exact State.raise_senderFrame (e.symm.trans h)
    · obtain rfl := Host.Outcome.next.inj (e.symm.trans h)
      exact (((State.sendControl_frame s _ _).trans (State.setSnd_frame _ _)).trans (State.arm_frame _)).answer _
  | sRx f =>
    rcases execSRx_eq_next h with ⟨-, r, rfl⟩ | ⟨-, u, r, hu, rfl⟩
    · exact (SenderFrame.refl s).answer r
    · exact ((State.countS_frame s _ _).trans (State.rxSndFrame_frame hu)).answer r
  | sTick =>
    rcases execSTick_eq_next h with ⟨-, r, rfl⟩ | ⟨-, u, r, hu, rfl⟩
    · exact (SenderFrame.refl s).answer r
    · exact (State.tick_frame hu).answer r
  | _ => cases hi

/-! ### All operations -/

/-- An operation is one of the sender's, one of the receiver's, or one without an engine (R129). -/
theorem exec_cases {i : Instr} {s t : State} (h : exec i s = .next t) :
    (isSenderOp i = true ∧ SenderFrame s t) ∨ (isReceiverOp i = true ∧ ReceiverFrame s t)
      ∨ ∃ u r, UnitEffect i s u ∧ t = { u with response := some r } := by
  by_cases hs : isSenderOp i = true
  · exact .inl ⟨hs, exec_sender_frame hs h⟩
  · by_cases hr : isReceiverOp i = true
    · obtain ⟨u, hu, hf⟩ := exec_receiver_frame hr s
      cases hu.symm.trans h
      exact .inr (.inl ⟨hr, hf⟩)
    · obtain ⟨u, r, hu, e⟩ := exec_unit_effect (by simpa using hs) (by simpa using hr) s
      cases e.symm.trans h
      exact .inr (.inr ⟨u, r, hu, rfl⟩)

/-- No operation changes what is still presented. -/
theorem exec_inputs {i : Instr} {s t : State} (h : exec i s = .next t) : t.inputs = s.inputs := by
  rcases exec_cases h with ⟨-, hf⟩ | ⟨-, hf⟩ | ⟨u, r, hu, rfl⟩
  · exact hf.inputs
  · exact hf.inputs
  · exact hu.frame.inputs

/-- While a run is active no operation changes the configuration (R37). -/
theorem exec_cfg_of_locked {i : Instr} {s t : State} (h : exec i s = .next t) (hl : s.unlocked = false) :
    t.cfg = s.cfg := by
  rcases exec_cases h with ⟨-, hf⟩ | ⟨-, hf⟩ | ⟨u, r, hu, rfl⟩
  · exact hf.cfg
  · exact hf.cfg
  · exact hu.cfg_of_locked hl

/-- Only the sender's operations write the sender's working registers (R8). -/
theorem exec_snd_of_not_senderOp {i : Instr} {s t : State} (h : exec i s = .next t) (hi : isSenderOp i = false) :
    t.snd = s.snd := by
  rcases exec_cases h with ⟨hs, -⟩ | ⟨-, hf⟩ | ⟨u, r, hu, rfl⟩
  · rw [hs] at hi
    cases hi
  · exact hf.snd
  · exact hu.frame.snd

end Sys2Proof.Machine
end

section
/-! The statements about the registers and the configuration lock. -/

namespace Sys2Proof.Machine

/-- The value of every register right after reset (R38). -/
theorem readCsr_reset (r : Csr) :
    State.reset.readCsr r
      = if r.offset = 0x00#8 ∨ r.offset = 0x04#8 then 1000#32
        else if r.offset = 0x30#8 ∨ r.offset = 0x34#8 then 1#32 else 0#32 := by
  cases r with
  | sndCnt c => cases c <;> rfl
  | rcvCnt c => cases c <;> rfl
  | _ => rfl

/-- A read of a register answers its value (R115). -/
theorem execRegRd_offset (s : State) (r : Csr) :
    execRegRd r.offset s = .next (s.answer (.data (s.readCsr r))) := by
  simp [execRegRd]

/-- Settles O23: a mapped offset is the offset of a register, and each register reads its listed reset value. -/
theorem resetLeavesTheListedValues : Obligations.ResetLeavesTheListedValues := by
  refine ⟨rfl, fun addr haddr => ?_⟩
  obtain ⟨r, rfl⟩ := mapped_iff_offset.mp haddr
  rw [← readCsr_reset r]
  exact execRegRd_offset State.reset r

/-- Settles O21: an offset of the locked range is that of a locked register, whose write the lock refuses; and no unit's
effect passes the lock. -/
theorem lockedRegistersKeepDuringARun : Obligations.LockedRegistersKeepDuringARun := by
  intro s hactive
  have hl : s.unlocked = false := by
    rwa [← State.unlocked_iff, Bool.not_eq_true] at hactive
  refine ⟨fun addr data haligned hlow => ?_, fun i t h => exec_cfg_of_locked h hl⟩
  obtain ⟨r, rfl⟩ := mapped_iff_offset.mp ⟨haligned, .inl (by omega)⟩
  have hr := r.access_eq_rwLocked_iff.mpr hlow
  change execRegWr r.offset data s = _
  rw [execRegWr_rwLocked s data hr, hl]
  rfl

end Sys2Proof.Machine
end

section
/-! The three flags of the sender (10_state.md R34): what each operation writes of them, in every state. -/

namespace Sys2Proof.Machine

/-- Two states agree in `SND_DONE` and `SND_FAIL` (R34). -/
structure SameEnd (s t : State) : Prop where
  done : t.snd.done = s.snd.done
  fail : t.snd.fail = s.snd.fail

theorem SameEnd.refl (s : State) : SameEnd s s := ⟨rfl, rfl⟩

theorem SameEnd.trans {s t u : State} (h : SameEnd s t) (k : SameEnd t u) : SameEnd s u :=
  ⟨k.done.trans h.done, k.fail.trans h.fail⟩

theorem State.finishCheck_sameEnd (s : State) : SameEnd s s.finishCheck := by
  unfold State.finishCheck
  split
  · exact ⟨rfl, rfl⟩
  · exact SameEnd.refl s

theorem State.fillAndFinish_sameEnd {s t : State} (h : s.fillAndFinish = .ok t) : SameEnd s t := by
  obtain ⟨u, hu, rfl⟩ := State.fillAndFinish_eq_ok h
  obtain ⟨-, hdone, hfail, -⟩ := State.fill_snd hu
  exact SameEnd.trans ⟨hdone, hfail⟩ u.finishCheck_sameEnd

theorem State.rxSynSent_sameEnd {s t : State} {k : SndKind} {g : Segment} (h : s.rxSynSent k g = .ok t) :
    SameEnd s t := by
  unfold State.rxSynSent at h
  split at h
  · have hu := State.fillAndFinish_sameEnd h
    exact ⟨hu.done, hu.fail⟩
  · cases h
    exact ⟨rfl, rfl⟩

theorem State.ackProgress_sameEnd {s t : State} {a : Word} (h : s.ackProgress a = .ok t) : SameEnd s t := by
  unfold State.ackProgress at h
  split at h
  all_goals
    have hu := State.fillAndFinish_sameEnd h
    exact ⟨hu.done, hu.fail⟩

theorem State.ackDuplicate_sameEnd {s t : State} (h : s.ackDuplicate = .ok t) : SameEnd s t := by
  rcases State.ackDuplicate_eq_ok h with ⟨-, u, -, rfl⟩ | ⟨-, -, rfl⟩ <;> exact ⟨rfl, rfl⟩

theorem State.rxEstablished_sameEnd {s t : State} {k : SndKind} {g : Segment} (h : s.rxEstablished k g = .ok t) :
    SameEnd s t := by
  unfold State.rxEstablished at h
  split at h
  · exact State.ackProgress_sameEnd h
  · split at h
    · exact State.ackDuplicate_sameEnd h
    · cases h
      exact ⟨rfl, rfl⟩

/-- R90: the closing sender ends its run with a FIN+ACK of its base alone. -/
theorem State.rxSndClosing_done_iff (s : State) (k : SndKind) (g : Segment) :
    (s.rxSndClosing k g).snd.done = true ↔ s.snd.done = true ∨ (k = .finAck ∧ g.ack = s.snd.base) := by
  unfold State.rxSndClosing
  split
  · next h => simp [h]
  · next h => simp [h]

theorem State.rxSndClosing_fail (s : State) (k : SndKind) (g : Segment) :
    (s.rxSndClosing k g).snd.fail = s.snd.fail := by
  unfold State.rxSndClosing
  split <;> rfl

theorem classifyS_eq_finAck_iff (flags : BitVec 4) : classifyS flags = some .finAck ↔ flags = 0xA#4 := by
  revert flags
  decide

/-- The frame is a FIN+ACK that a closing sender accepts (R84, R90, R94). -/
def State.acceptsFinAck (s : State) (f : Bytes) : Prop :=
  s.snd.st = .closing ∧ ∃ g, dec f = some g ∧ g.len.toNat ≤ s.cfg.mss.toNat ∧ g.flags = 0xA#4 ∧ g.ack = s.snd.base

theorem State.rxSndState_done_iff {s t : State} {k : SndKind} {g : Segment} (h : s.rxSndState k g = .ok t) :
    t.snd.done = true ↔ s.snd.done = true ∨ (s.snd.st = .closing ∧ k = .finAck ∧ g.ack = s.snd.base) := by
  unfold State.rxSndState at h
  split at h
  case h_1 hst =>
    cases h
    simp [hst]
  case h_2 hst => simp [hst, (State.rxSynSent_sameEnd h).done]
  case h_3 hst => simp [hst, (State.rxEstablished_sameEnd h).done]
  case h_4 hst =>
    cases h
    simp [hst, State.rxSndClosing_done_iff]

theorem State.rxSndState_fail {s t : State} {k : SndKind} {g : Segment} (h : s.rxSndState k g = .ok t) :
    t.snd.fail = s.snd.fail := by
  unfold State.rxSndState at h
  split at h
  · cases h
    rfl
  · exact (State.rxSynSent_sameEnd h).fail
  · exact (State.rxEstablished_sameEnd h).fail
  · cases h
    exact s.rxSndClosing_fail k g

/-- A frame either reaches the state rules as a segment of a kind the sender acts on, or is counted and dropped (R84). -/
theorem State.rxSndFrame_cases (s : State) (f : Bytes) :
    (∃ g k, dec f = some g ∧ classifyS g.flags = some k ∧ g.len.toNat ≤ s.cfg.mss.toNat
        ∧ s.rxSndFrame f = s.rxSndState k g)
      ∨ ((∀ g, dec f = some g → g.len.toNat ≤ s.cfg.mss.toNat → classifyS g.flags = none)
        ∧ ∃ c, s.rxSndFrame f = .ok (s.countS c)) := by
  unfold State.rxSndFrame
  cases hd : dec f with
  | none => exact .inr ⟨by simp, .corrupt, rfl⟩
  | some g =>
    cases hk : classifyS g.flags with
    | none => exact .inr ⟨by simp [hk], .discard, by simp [hk]⟩
    | some k =>
      by_cases hlen : g.len.toNat > s.cfg.mss.toNat
      · refine .inr ⟨fun g' hg hle => ?_, .discard, by simp [hk, hlen]⟩
        cases hg
        omega
      · exact .inl ⟨g, k, rfl, hk, by omega, by simp [hk, hlen]⟩

theorem State.rxSndFrame_done_iff {s t : State} {f : Bytes} (h : s.rxSndFrame f = .ok t) :
    t.snd.done = true ↔ s.snd.done = true ∨ s.acceptsFinAck f := by
  rcases s.rxSndFrame_cases f with ⟨g, k, hg, hk, hlen, e⟩ | ⟨hnone, c, e⟩
  · rw [State.rxSndState_done_iff (e.symm.trans h)]
    have hkind : k = .finAck ↔ g.flags = 0xA#4 := by
      rw [← classifyS_eq_finAck_iff, hk, Option.some.injEq]
    simp [State.acceptsFinAck, hg, hlen, hkind]
  · cases e.symm.trans h
    refine (or_iff_left ?_).symm
    rintro ⟨-, g, hg, hlen, hflags, -⟩
    have := hnone g hg hlen
    rw [(classifyS_eq_finAck_iff _).mpr hflags] at this
    cases this

theorem State.rxSndFrame_fail {s t : State} {f : Bytes} (h : s.rxSndFrame f = .ok t) : t.snd.fail = s.snd.fail := by
  rcases s.rxSndFrame_cases f with ⟨g, k, -, -, -, e⟩ | ⟨-, c, e⟩
  · exact State.rxSndState_fail (e.symm.trans h)
  · cases e.symm.trans h
    rfl

/-- R92: the expiry sets `SND_FAIL` with the budget spent, and never `SND_DONE`. -/
theorem State.expire_end {s t : State} (h : s.expire = .ok t) :
    t.snd.done = s.snd.done
      ∧ (t.snd.fail = true ↔ s.snd.fail = true ∨ s.snd.retry = s.cfg.maxRetry) := by
  rcases State.expire_eq_ok h with ⟨hr, rfl⟩ | ⟨hr, -, u, hu, rfl⟩
  · exact ⟨rfl, by simp [hr]⟩
  · have hsnd := (State.resend_frame hu).2
    simp [hsnd, hr]

theorem State.tick_end {s t : State} (h : s.tick = .ok t) :
    t.snd.done = s.snd.done
      ∧ (t.snd.fail = true ↔ s.snd.fail = true ∨ (s.snd.tmrCnt = 1#32 ∧ s.snd.retry = s.cfg.maxRetry)) := by
  have one : s.snd.tmrCnt - 1#32 = 0#32 ↔ s.snd.tmrCnt = 1#32 := sub_eq_zero
  rcases (State.tick_eq_ok h).2 with ⟨h1, rfl⟩ | ⟨h1, he⟩
  · have : s.snd.tmrCnt ≠ 1#32 := fun e => h1 (one.mpr e)
    simp [State.countDown, this]
  · have := State.expire_end he
    simpa [State.countDown, one.mp h1] using this

/-- R34, R90: what the operation does to `SND_DONE`. -/
theorem exec_done_iff {i : Instr} {s t : State} (h : exec i s = .next t) :
    t.snd.done = true ↔ s.snd.done = true ∨ ∃ f, i = .sRx f ∧ s.acceptsFinAck f := by
  cases i with
  | sRx f =>
    simp only [Instr.sRx.injEq, exists_eq_left']
    rcases execSRx_eq_next h with ⟨hst, r, rfl⟩ | ⟨-, u, r, hu, rfl⟩
    · simp [State.acceptsFinAck, hst]
    · simpa [State.acceptsFinAck] using State.rxSndFrame_done_iff hu
  | sTick =>
    rcases execSTick_eq_next h with ⟨-, r, rfl⟩ | ⟨-, u, r, hu, rfl⟩
    · simp
    · simp [(State.tick_end hu).1]
  | sOpen =>
    rcases execSOpen_cases s with ⟨o, e⟩ | ⟨-, -, -, -, e⟩
    · cases e.symm.trans h
      simp
    · cases e.symm.trans h
      simp [Sender.opened]
  | _ => simp [exec_snd_of_not_senderOp h rfl]

/-- R34, R92: what the operation does to `SND_FAIL`. -/
theorem exec_fail_iff {i : Instr} {s t : State} (h : exec i s = .next t) :
    t.snd.fail = true ↔
      s.snd.fail = true
        ∨ (i = .sTick ∧ s.snd.armed = true ∧ s.snd.tmrCnt = 1#32 ∧ s.snd.retry = s.cfg.maxRetry) := by
  cases i with
  | sRx f =>
    rcases execSRx_eq_next h with ⟨-, r, rfl⟩ | ⟨-, u, r, hu, rfl⟩
    · simp
    · simp [State.rxSndFrame_fail hu]
  | sTick =>
    rcases execSTick_eq_next h with ⟨ha, r, rfl⟩ | ⟨ha, u, r, hu, rfl⟩
    · simp [ha]
    · simpa [ha] using (State.tick_end hu).2
  | sOpen =>
    rcases execSOpen_cases s with ⟨o, e⟩ | ⟨-, -, -, -, e⟩
    · cases e.symm.trans h
      simp
    · cases e.symm.trans h
      simp [Sender.opened]
  | _ => simp [exec_snd_of_not_senderOp h rfl]

/-- Settles O36: the flags are the ones that `exec_done_iff` and `exec_fail_iff` give, and the timer is the sender's. -/
theorem senderFlagsAreSticky : Obligations.SenderFlagsAreSticky := by
  intro i s t h
  refine ⟨?_, exec_fail_iff h, fun hi => by rw [exec_snd_of_not_senderOp h hi]⟩
  simpa only [State.acceptsFinAck, exists_and_left] using exec_done_iff h

end Sys2Proof.Machine
end

section
/-! SUPPORT. The laws of R39 unit by unit: the sender by the phase of its run, the injector's channels, the receiver. -/

namespace Sys2Proof.Machine

/-- The laws of a sender with an active run under the configuration `k`, whatever its state (R39 items 1 to 3 and 6, R29,
R83). -/
structure Sender.Running (k : CfgRegs) (x : Sender) : Prop where
  notDone : x.done = false
  notFailed : x.fail = false
  dup : x.dupCnt.toNat ≤ 2
  retry : x.retry.toNat ≤ k.maxRetry.toNat
  isnBase : k.isn.toNat ≤ x.base.toNat
  baseNext : x.base.toNat ≤ x.next.toNat
  nextEnd : x.next.toNat ≤ x.endSeq.toNat
  window : x.next.toNat - x.base.toNat ≤ k.maxWin.toNat
  latched : x.endSeq.toNat = k.isn.toNat + k.totalLen.toNat
  mss : k.mss ≠ 0#16
  maxWin : k.maxWin ≠ 0#32
  rto : k.rtoTicks ≠ 0#32

/-- The laws of the timer (R39 item 5) where it is to be armed exactly while `waiting`. -/
structure Sender.TimerLaw (k : CfgRegs) (x : Sender) (waiting : Prop) : Prop where
  armed_iff : x.armed = true ↔ waiting
  armed : x.armed = true → 1 ≤ x.tmrCnt.toNat ∧ x.tmrCnt.toNat ≤ k.rtoTicks.toNat
  disarmed : x.armed = false → x.tmrCnt = 0#32

/-- The laws of the sender (R39 items 1 to 7), by the phase of its run. -/
inductive Sender.Lawful (k : CfgRegs) (x : Sender) : Prop
  | fresh (values : x = Sender.reset)
  | ended (st : x.st = .closed) (one : x.done ≠ x.fail) (disarmed : x.armed = false) (count : x.tmrCnt = 0#32)
      (dup : x.dupCnt.toNat ≤ 2)
  | synSent (st : x.st = .synSent) (run : x.Running k) (timer : x.TimerLaw k True) (base : x.base = k.isn)
      (next : x.next = k.isn)
  | established (st : x.st = .established) (run : x.Running k) (timer : x.TimerLaw k (x.base.toNat < x.next.toNat))
      (filled : x.next = x.endSeq ∨ x.next.toNat - x.base.toNat = k.maxWin.toNat)
  | closing (st : x.st = .closing) (run : x.Running k) (timer : x.TimerLaw k True) (base : x.base = x.endSeq)
      (next : x.next = x.endSeq)

/-- The laws of the receiver's registers (R30, R39 item 8). -/
structure Receiver.Lawful (x : Receiver) : Prop where
  listening : x.st = .listening → x.expected = 0#32 ∧ x.irs = 0#32
  received : x.irs.toNat ≤ x.expected.toNat

theorem Receiver.lawful_reset : Receiver.reset.Lawful := by constructor <;> decide

/-! ### `State.Coherent` is the conjunction of the units' laws -/

theorem State.Coherent.running {s : State} (h : s.Coherent) (hst : s.snd.st ≠ .closed) : s.snd.Running s.cfg := by
  obtain ⟨isnBase, baseNext, nextEnd⟩ := h.ordered hst
  obtain ⟨mss, maxWin, rto⟩ := h.runnable hst
  have notDone : s.snd.done = false := by
    by_contra hd
    exact hst (h.endedClosed (.inl (by simpa using hd)))
  have notFailed : s.snd.fail = false := by
    by_contra hf
    exact hst (h.endedClosed (.inr (by simpa using hf)))
  exact { notDone, notFailed, dup := h.dupBound, retry := h.retryBound notDone notFailed, isnBase, baseNext, nextEnd,
          window := h.window hst, latched := h.latched hst, mss, maxWin, rto }

theorem State.Coherent.timerLaw {s : State} (h : s.Coherent) {waiting : Prop}
    (hw : (s.snd.st = .synSent ∨ s.snd.st = .closing
      ∨ (s.snd.st = .established ∧ s.snd.base.toNat < s.snd.next.toNat)) ↔ waiting) :
    s.snd.TimerLaw s.cfg waiting :=
  ⟨h.timer.trans hw, h.armedCount, h.disarmedCount⟩

theorem State.Coherent.sender {s : State} (h : s.Coherent) : s.snd.Lawful s.cfg := by
  cases hst : s.snd.st with
  | closed =>
    by_cases hend : s.snd.done = s.snd.fail
    · have hd : s.snd.done = false := by
        by_contra hd
        exact h.oneEnd ⟨by simpa using hd, by simpa [hend] using hd⟩
      exact .fresh (h.fresh hst hd (hend ▸ hd))
    · have disarmed : s.snd.armed = false := by
        by_contra ha
        have := h.timer.mp (by simpa using ha)
        simp [hst] at this
      exact .ended hst hend disarmed (h.disarmedCount disarmed) h.dupBound
  | synSent =>
    obtain ⟨base, next⟩ := h.synSentBase hst
    exact .synSent hst (h.running (by simp [hst])) (h.timerLaw (by simp [hst])) base next
  | established =>
    exact .established hst (h.running (by simp [hst])) (h.timerLaw (by simp [hst])) (h.filled hst)
  | closing =>
    obtain ⟨base, next⟩ := h.closingBase hst
    exact .closing hst (h.running (by simp [hst])) (h.timerLaw (by simp [hst])) base next

/-- The laws of the injector, the receiver and the source, which `State.Coherent` asks beside the sender's. -/
structure State.OthersLawful (s : State) : Prop where
  fwd : s.fwd.Legal
  rev : s.rev.Legal
  rcv : s.rcv.Lawful
  src : s.src.wf = true

theorem State.Coherent.others {s : State} (h : s.Coherent) : s.OthersLawful := by
  obtain ⟨fwdSeed, revSeed⟩ := h.seeds
  obtain ⟨fwdLoss, fwdCorr, revLoss, revCorr⟩ := h.thresholds
  exact ⟨⟨fwdSeed, fwdLoss, fwdCorr⟩, ⟨revSeed, revLoss, revCorr⟩, ⟨h.listening, h.received⟩, h.source⟩

/-- The laws of the state for a sender without a run. -/
theorem State.coherent_of_closed {s : State} (o : s.OthersLawful) (hst : s.snd.st = .closed)
    (one : ¬(s.snd.done = true ∧ s.snd.fail = true)) (disarmed : s.snd.armed = false) (count : s.snd.tmrCnt = 0#32)
    (dup : s.snd.dupCnt.toNat ≤ 2) (fresh : s.snd.done = false → s.snd.fail = false → s.snd = Sender.reset) :
    s.Coherent where
  oneEnd := one
  endedClosed _ := hst
  ordered h := absurd hst h
  window h := absurd hst h
  synSentBase h := by simp [hst] at h
  closingBase h := by simp [hst] at h
  timer := by simp [hst, disarmed]
  armedCount h := by simp [disarmed] at h
  disarmedCount _ := count
  dupBound := dup
  retryBound hd hf := by
    rw [fresh hd hf]
    exact Nat.zero_le _
  fresh _ := fresh
  filled h := by simp [hst] at h
  seeds := ⟨o.fwd.seed, o.rev.seed⟩
  thresholds := ⟨o.fwd.loss, o.fwd.corruption, o.rev.loss, o.rev.corruption⟩
  latched h := absurd hst h
  runnable h := absurd hst h
  listening := o.rcv.listening
  received := o.rcv.received
  source := o.src

/-- The laws of the state for a sender with an active run. -/
theorem State.coherent_of_running {s : State} (o : s.OthersLawful) (hst : s.snd.st ≠ .closed)
    (run : s.snd.Running s.cfg)
    (timer : s.snd.TimerLaw s.cfg (s.snd.st = .synSent ∨ s.snd.st = .closing
      ∨ (s.snd.st = .established ∧ s.snd.base.toNat < s.snd.next.toNat)))
    (synSentBase : s.snd.st = .synSent → s.snd.base = s.cfg.isn ∧ s.snd.next = s.cfg.isn)
    (closingBase : s.snd.st = .closing → s.snd.base = s.snd.endSeq ∧ s.snd.next = s.snd.endSeq)
    (filled : s.snd.st = .established →
      s.snd.next = s.snd.endSeq ∨ s.snd.next.toNat - s.snd.base.toNat = s.cfg.maxWin.toNat) :
    s.Coherent where
  oneEnd h := by simp [run.notDone] at h
  endedClosed h := by simp [run.notDone, run.notFailed] at h
  ordered _ := ⟨run.isnBase, run.baseNext, run.nextEnd⟩
  window _ := run.window
  synSentBase := synSentBase
  closingBase := closingBase
  timer := timer.armed_iff
  armedCount := timer.armed
  disarmedCount := timer.disarmed
  dupBound := run.dup
  retryBound _ _ := run.retry
  fresh h := absurd h hst
  filled := filled
  seeds := ⟨o.fwd.seed, o.rev.seed⟩
  thresholds := ⟨o.fwd.loss, o.fwd.corruption, o.rev.loss, o.rev.corruption⟩
  latched _ := run.latched
  runnable _ := ⟨run.mss, run.maxWin, run.rto⟩
  listening := o.rcv.listening
  received := o.rcv.received
  source := o.src

/-- The laws of the state are those of its units. -/
theorem State.coherent_iff {s : State} : s.Coherent ↔ s.snd.Lawful s.cfg ∧ s.OthersLawful := by
  refine ⟨fun h => ⟨h.sender, h.others⟩, fun ⟨h, o⟩ => ?_⟩
  cases h with
  | fresh values => apply State.coherent_of_closed o <;> simp [values, Sender.reset]
  | ended st one disarmed count dup =>
    refine State.coherent_of_closed o st ?_ disarmed count dup ?_
    · exact fun ⟨hd, hf⟩ => one (hd.trans hf.symm)
    · exact fun hd hf => absurd (hd.trans hf.symm) one
  | synSent st run timer base next =>
    exact State.coherent_of_running o (by simp [st]) run (by simpa [st] using timer) (fun _ => ⟨base, next⟩)
      (by simp [st]) (by simp [st])
  | established st run timer filled =>
    exact State.coherent_of_running o (by simp [st]) run (by simpa [st] using timer) (by simp [st]) (by simp [st])
      (fun _ => filled)
  | closing st run timer base next =>
    exact State.coherent_of_running o (by simp [st]) run (by simpa [st] using timer) (by simp [st])
      (fun _ => ⟨base, next⟩) (by simp [st])

/-! ### The phases of the sender -/

theorem Sender.Lawful.running {k : CfgRegs} {x : Sender} (h : x.Lawful k) (hst : x.st ≠ .closed) : x.Running k := by
  cases h with
  | fresh values => exact absurd (by rw [values]; rfl) hst
  | ended st => exact absurd st hst
  | synSent _ run => exact run
  | established _ run => exact run
  | closing _ run => exact run

/-- Only a sender with an active run has its timer armed (R39 item 5). -/
theorem Sender.Lawful.open_of_armed {k : CfgRegs} {x : Sender} (h : x.Lawful k) (ha : x.armed = true) :
    x.st ≠ .closed := by
  cases h with
  | fresh values =>
    rw [values] at ha
    cases ha
  | ended _ _ disarmed =>
    rw [disarmed] at ha
    cases ha
  | synSent st => simp [st]
  | established st => simp [st]
  | closing st => simp [st]

theorem Sender.Lawful.armed_count {k : CfgRegs} {x : Sender} (h : x.Lawful k) (ha : x.armed = true) :
    1 ≤ x.tmrCnt.toNat ∧ x.tmrCnt.toNat ≤ k.rtoTicks.toNat := by
  cases h with
  | fresh values =>
    rw [values] at ha
    cases ha
  | ended _ _ disarmed =>
    rw [disarmed] at ha
    cases ha
  | synSent _ _ timer => exact timer.armed ha
  | established _ _ timer => exact timer.armed ha
  | closing _ _ timer => exact timer.armed ha

/-- Without a run the configuration is free: the laws of a closed sender do not read it (R37). -/
theorem Sender.Lawful.of_closed {k : CfgRegs} {x : Sender} (h : x.Lawful k) (hst : x.st = .closed) (k' : CfgRegs) :
    x.Lawful k' := by
  cases h with
  | fresh values => exact .fresh values
  | ended st one disarmed count dup => exact .ended st one disarmed count dup
  | synSent st => simp [st] at hst
  | established st => simp [st] at hst
  | closing st => simp [st] at hst

theorem Sender.Lawful.dup_le {k : CfgRegs} {x : Sender} (h : x.Lawful k) : x.dupCnt.toNat ≤ 2 := by
  cases h with
  | fresh values =>
    rw [values]
    decide
  | ended _ _ _ _ dup => exact dup
  | synSent _ run => exact run.dup
  | established _ run => exact run.dup
  | closing _ run => exact run.dup

/-- An armed timer may take any count that is in range, and with it the retry count any value in the budget. -/
theorem Sender.Lawful.restart {k : CfgRegs} {x : Sender} (h : x.Lawful k) (ha : x.armed = true) {r : Half} {c : Word}
    (hr : r.toNat ≤ k.maxRetry.toNat) (hc : 1 ≤ c.toNat) (hrto : c.toNat ≤ k.rtoTicks.toNat) :
    ({ x with retry := r, armed := true, tmrCnt := c } : Sender).Lawful k := by
  have run : ({ x with retry := r, armed := true, tmrCnt := c } : Sender).Running k :=
    { h.running (h.open_of_armed ha) with retry := hr }
  have timer : ∀ waiting : Prop, x.TimerLaw k waiting →
      ({ x with retry := r, armed := true, tmrCnt := c } : Sender).TimerLaw k waiting :=
    fun _ law => ⟨⟨fun _ => law.armed_iff.mp ha, fun _ => rfl⟩, fun _ => ⟨hc, hrto⟩, fun hf => by cases hf⟩
  cases h with
  | fresh values =>
    rw [values] at ha
    cases ha
  | ended _ _ disarmed =>
    rw [disarmed] at ha
    cases ha
  | synSent st _ law base next => exact .synSent st run (timer _ law) base next
  | established st _ law filled => exact .established st run (timer _ law) filled
  | closing st _ law base next => exact .closing st run (timer _ law) base next

end Sys2Proof.Machine
end

section
/-! SUPPORT. The sender's operations from a state with the laws of R39: none faults (R42, R80, R13), and each leaves a
state with the laws. -/

namespace Sys2Proof.Machine

/-! ### Sending (R42, R80) -/

/-- `t` is `s` after some frames have been sent: the working registers and the configuration stand, the injector's laws
hold. -/
structure State.Sent (s t : State) : Prop where
  snd : t.snd = s.snd
  cfg : t.cfg = s.cfg
  legal : t.fwd.Legal

theorem State.Sent.trans {s t u : State} (h : s.Sent t) (k : t.Sent u) : s.Sent u :=
  ⟨k.snd.trans h.snd, k.cfg.trans h.cfg, k.legal⟩

/-- A piece of at most `CFG_MSS` bytes between `CFG_ISN` and `SND_END` can be read and sent. -/
theorem State.sendData_sent {s : State} {seq n : Nat} (run : s.snd.Running s.cfg) (legal : s.fwd.Legal)
    (pos : 1 ≤ n) (mss : n ≤ s.cfg.mss.toNat) (low : s.cfg.isn.toNat ≤ seq) (high : seq + n ≤ s.snd.endSeq.toNat) :
    ∃ t, s.sendData seq n = .ok t ∧ s.Sent t := by
  have latched := run.latched
  have may : s.cfg.mayRead seq n = true := (CfgRegs.mayRead_iff _ _ _).mpr ⟨pos, mss, low, by omega⟩
  exact ⟨_, State.sendData_eq_ok.mpr ⟨may, rfl⟩, rfl, rfl, legal.send _⟩

theorem Sender.Running.mss_pos {k : CfgRegs} {x : Sender} (run : x.Running k) : 1 ≤ k.mss.toNat :=
  Nat.pos_of_ne_zero fun h => run.mss (BitVec.eq_of_toNat_eq h)

theorem Sender.Running.rto_pos {k : CfgRegs} {x : Sender} (run : x.Running k) : 1 ≤ k.rtoTicks.toNat :=
  Nat.pos_of_ne_zero fun h => run.rto (BitVec.eq_of_toNat_eq h)

/-- A piece of the range below `SND_NEXT`, as the resends of R89 and R91 cut it, can be read and sent. -/
theorem State.resendPiece_sent {s : State} {p : Nat} (run : s.snd.Running s.cfg) (legal : s.fwd.Legal)
    (low : s.snd.base.toNat ≤ p) (high : p < s.snd.next.toNat) :
    ∃ t, s.sendData p (min s.cfg.mss.toNat (s.snd.next.toNat - p)) = .ok t ∧ s.Sent t := by
  have mss := run.mss_pos
  have isnBase := run.isnBase
  have nextEnd := run.nextEnd
  exact State.sendData_sent run legal (by omega) (by omega) (by omega) (by omega)

/-- A timer that is armed with `CFG_RTO_TICKS` obeys the laws (R81). -/
theorem Sender.Running.timerLaw_armed {k k' : CfgRegs} {x y : Sender} (run : x.Running k) {waiting : Prop}
    (hw : waiting) (armed : y.armed = true) (count : y.tmrCnt = k.rtoTicks) (hk : k' = k) :
    y.TimerLaw k' waiting := by
  subst hk
  refine ⟨⟨fun _ => hw, fun _ => armed⟩, fun _ => ?_, fun hf => ?_⟩
  · rw [count]
    exact ⟨run.rto_pos, le_rfl⟩
  · rw [armed] at hf
    cases hf

/-- A disarmed timer with count zero obeys the laws (R81). -/
theorem Sender.timerLaw_disarmed (k : CfgRegs) {x : Sender} {waiting : Prop} (hw : ¬waiting) (disarmed : x.armed = false)
    (count : x.tmrCnt = 0#32) : x.TimerLaw k waiting :=
  ⟨⟨fun ha => (by rw [disarmed] at ha; cases ha), fun h => absurd h hw⟩,
    fun ha => (by rw [disarmed] at ha; cases ha), fun _ => count⟩

/-! ### The loop of R85 and the FIN of R86 -/

/-- The laws inside the loop of R85: all of an established sender but the filled window. -/
structure State.Filling (s : State) : Prop where
  st : s.snd.st = .established
  run : s.snd.Running s.cfg
  timer : s.snd.TimerLaw s.cfg (s.snd.base.toNat < s.snd.next.toNat)
  legal : s.fwd.Legal

/-- What an operation of the sender leaves: the laws, the retry count in its budget, the laws of the injector. -/
structure State.SenderOk (s : State) : Prop where
  lawful : s.snd.Lawful s.cfg
  retry : s.snd.retry.toNat ≤ s.cfg.maxRetry.toNat
  legal : s.fwd.Legal

/-- Where the loop of R85 goes on, the next piece is not empty and stays in the window and below `SND_END`. -/
theorem State.Filling.fillSize_spec {s : State} (h : s.Filling) (hm : s.mayFill = true) :
    1 ≤ s.fillSize ∧ s.fillSize ≤ s.cfg.mss.toNat ∧ s.snd.next.toNat + s.fillSize ≤ s.snd.endSeq.toNat
      ∧ s.snd.next.toNat + s.fillSize - s.snd.base.toNat ≤ s.cfg.maxWin.toNat := by
  have mss := h.run.mss_pos
  have baseNext := h.run.baseNext
  simp only [State.mayFill, decide_eq_true_eq] at hm
  unfold State.fillSize
  omega

/-- The registers after `SND_NEXT` has moved by a piece that fits keep the laws of the loop (R85). -/
theorem State.Filling.advanceNext {s : State} (h : s.Filling) {n : Nat} (pos : 1 ≤ n)
    (high : s.snd.next.toNat + n ≤ s.snd.endSeq.toNat)
    (window : s.snd.next.toNat + n - s.snd.base.toNat ≤ s.cfg.maxWin.toNat) :
    (s.advanceNext n (decide (s.snd.next = s.snd.base))).Filling
      ∧ (s.advanceNext n (decide (s.snd.next = s.snd.base))).snd.next.toNat = s.snd.next.toNat + n := by
  have baseNext := h.run.baseNext
  have next : (BitVec.ofNat 32 (s.snd.next.toNat + n)).toNat = s.snd.next.toNat + n := by
    rw [BitVec.toNat_ofNat]
    exact Nat.mod_eq_of_lt (lt_of_le_of_lt high s.snd.endSeq.isLt)
  have waiting : s.snd.base.toNat < (BitVec.ofNat 32 (s.snd.next.toNat + n)).toNat := by omega
  unfold State.advanceNext
  by_cases hempty : s.snd.next = s.snd.base
  · rw [if_pos (by simpa using hempty)]
    refine ⟨⟨h.st, ?_, h.run.timerLaw_armed waiting rfl rfl rfl, h.legal⟩, next⟩
    exact { h.run with
      baseNext := waiting.le, nextEnd := next.le.trans high, window := (congrArg (· - _) next).le.trans window }
  · rw [if_neg (by simpa using hempty)]
    have armed : s.snd.armed = true := h.timer.armed_iff.mpr
      (lt_of_le_of_ne baseNext fun e => hempty (BitVec.eq_of_toNat_eq e.symm))
    refine ⟨⟨h.st, ?_, ⟨⟨fun _ => waiting, fun _ => armed⟩, h.timer.armed, h.timer.disarmed⟩, h.legal⟩, next⟩
    exact { h.run with
      baseNext := waiting.le, nextEnd := next.le.trans high, window := (congrArg (· - _) next).le.trans window }

theorem State.Sent.filling {s t : State} (sent : s.Sent t) (h : s.Filling) : t.Filling := by
  refine ⟨?_, ?_, ?_, sent.legal⟩
  · rw [sent.snd]
    exact h.st
  · rw [sent.snd, sent.cfg]
    exact h.run
  · rw [sent.snd, sent.cfg]
    exact h.timer

/-- One iteration of the loop of R85 answers, keeps its laws, and brings `SND_NEXT` nearer to `SND_END`. -/
theorem State.Filling.fillOne {s : State} (h : s.Filling) (hm : s.mayFill = true) :
    ∃ t, s.fillOne = .ok t ∧ t.Filling ∧ s.snd.next.toNat < t.snd.next.toNat ∧ t.snd.endSeq = s.snd.endSeq := by
  obtain ⟨pos, mss, high, window⟩ := h.fillSize_spec hm
  obtain ⟨u, hu, sent⟩ :=
    State.sendData_sent h.run h.legal pos mss (h.run.isnBase.trans h.run.baseNext) high
  have snd := sent.snd
  obtain ⟨filling, next⟩ := (sent.filling h).advanceNext (n := s.fillSize) pos (by rw [snd]; exact high)
    (by rw [snd, sent.cfg]; exact window)
  rw [snd] at filling next
  refine ⟨_, by simp only [State.fillOne, hu], filling, by omega, ?_⟩
  rw [State.advanceNext_snd, snd]

/-- The loop of R85 ends with the window or the source exhausted. -/
theorem State.Filling.fillLoop {s : State} (h : s.Filling) {k : Nat}
    (hk : s.snd.endSeq.toNat - s.snd.next.toNat ≤ k) :
    ∃ t, State.fillLoop k s = .ok t ∧ t.Filling ∧ t.mayFill = false := by
  induction k generalizing s with
  | zero =>
    refine ⟨s, rfl, h, ?_⟩
    simp only [State.mayFill, decide_eq_false_iff_not]
    omega
  | succ k ih =>
    rw [State.fillLoop]
    by_cases hm : s.mayFill = true
    · obtain ⟨u, hu, filling, next, endSeq⟩ := h.fillOne hm
      rw [if_pos hm, hu]
      exact ih filling (by rw [endSeq]; omega)
    · exact ⟨s, if_neg hm, h, by simpa using hm⟩

theorem State.Filling.filled {s : State} (h : s.Filling) (hm : s.mayFill = false) :
    s.snd.next = s.snd.endSeq ∨ s.snd.next.toNat - s.snd.base.toNat = s.cfg.maxWin.toNat := by
  have nextEnd := h.run.nextEnd
  have window := h.run.window
  simp only [State.mayFill, decide_eq_false_iff_not] at hm
  rw [← BitVec.toNat_inj]
  omega

/-- R86: the sender that has nothing left goes to `CLOSING` with its FIN. -/
theorem State.Filling.beginClosing {s : State} (h : s.Filling) (hb : s.snd.base = s.snd.endSeq) :
    s.beginClosing.SenderOk := by
  have hn : s.snd.next = s.snd.endSeq :=
    BitVec.eq_of_toNat_eq (le_antisymm h.run.nextEnd (hb ▸ h.run.baseNext))
  refine ⟨.closing rfl ?_ (h.run.timerLaw_armed trivial rfl rfl rfl) hb hn, Nat.zero_le _, h.legal.send _⟩
  exact { h.run with dup := Nat.zero_le _, retry := Nat.zero_le _ }

theorem State.Filling.finishCheck {s : State} (h : s.Filling) (hm : s.mayFill = false) : s.finishCheck.SenderOk := by
  unfold State.finishCheck
  by_cases hb : s.snd.base = s.snd.endSeq
  · rw [if_pos ⟨h.st, hb⟩]
    exact h.beginClosing hb
  · rw [if_neg fun e => hb e.2]
    exact ⟨.established h.st h.run h.timer (h.filled hm), h.run.retry, h.legal⟩

theorem State.Filling.fillAndFinish {s : State} (h : s.Filling) : ∃ t, s.fillAndFinish = .ok t ∧ t.SenderOk := by
  obtain ⟨u, hu, filling, hm⟩ := h.fillLoop le_rfl
  exact ⟨u.finishCheck, by simp only [State.fillAndFinish, State.fill, hu], filling.finishCheck hm⟩

/-! ### `S.RX` (R84, R87 to R90) -/

theorem State.SenderOk.countS {s : State} (h : s.SenderOk) (c : SndCtr) (n : Nat) : (s.countS c n).SenderOk :=
  ⟨h.lawful, h.retry, h.legal⟩

theorem State.SenderOk.running {s : State} (h : s.SenderOk) (hst : s.snd.st ≠ .closed) : s.snd.Running s.cfg :=
  h.lawful.running hst

/-- A sender with an active run has its retry count in the budget (R39 item 6). -/
theorem State.senderOk_of_open {s : State} (h : s.snd.Lawful s.cfg) (hst : s.snd.st ≠ .closed)
    (legal : s.fwd.Legal) : s.SenderOk :=
  ⟨h, (h.running hst).retry, legal⟩

/-- R87: after the handshake the window is empty at `CFG_ISN`. -/
theorem State.establish_filling {s : State} (run : s.snd.Running s.cfg) (legal : s.fwd.Legal) :
    s.establish.Filling := by
  refine ⟨rfl, ?_, Sender.timerLaw_disarmed _ (lt_irrefl _) rfl rfl, legal⟩
  exact { run with
    dup := Nat.zero_le _, retry := Nat.zero_le _, isnBase := le_rfl, baseNext := le_rfl
    nextEnd := run.isnBase.trans (run.baseNext.trans run.nextEnd), window := by simp [State.establish] }

theorem State.SenderOk.rxSynSent {s : State} (h : s.SenderOk) (hst : s.snd.st ≠ .closed) (k : SndKind) (g : Segment) :
    ∃ t, s.rxSynSent k g = .ok t ∧ t.SenderOk := by
  unfold State.rxSynSent
  split
  · exact (State.establish_filling (h.running hst) h.legal).fillAndFinish
  · exact ⟨_, rfl, h.countS _ _⟩

/-- R88: the base moves inside the outstanding range, and the timer runs again where something is left of it. -/
theorem State.SenderOk.ackProgress {s : State} (h : s.SenderOk) (hst : s.snd.st = .established) {a : Word}
    (low : s.snd.base.toNat < a.toNat) (high : a.toNat ≤ s.snd.next.toNat) :
    ∃ t, s.ackProgress a = .ok t ∧ t.SenderOk := by
  have run := h.running (by simp [hst])
  have isnBase := run.isnBase
  have window := run.window
  have moved : (s.advanceBase a).snd.Running s.cfg := { run with
    dup := Nat.zero_le _, retry := Nat.zero_le _, isnBase := isnBase.trans low.le, baseNext := high
    window := (Nat.sub_le_sub_left low.le _).trans window }
  unfold State.ackProgress
  split
  · next left =>
    have armed : (s.advanceBase a).arm.Filling :=
      ⟨hst, { moved with }, moved.timerLaw_armed left rfl rfl rfl, h.legal⟩
    exact armed.fillAndFinish
  · next left =>
    have idle : (s.advanceBase a).Filling :=
      ⟨hst, moved, Sender.timerLaw_disarmed _ left rfl rfl, h.legal⟩
    exact idle.fillAndFinish

/-- A new duplicate count at most 2 keeps the laws of an established sender. -/
theorem Sender.Lawful.setDup {k : CfgRegs} {x : Sender} (h : x.Lawful k) (hst : x.st = .established) {d : BitVec 2}
    (hd : d.toNat ≤ 2) : ({ x with dupCnt := d } : Sender).Lawful k := by
  cases h with
  | fresh values =>
    rw [values] at hst
    cases hst
  | ended st => simp [st] at hst
  | synSent st => simp [st] at hst
  | established st run timer filled =>
    exact .established st { run with dup := hd } ⟨timer.armed_iff, timer.armed, timer.disarmed⟩ filled
  | closing st => simp [st] at hst

/-- R89: the third duplicate resends one piece from the base, which is outstanding. -/
theorem State.SenderOk.ackDuplicate {s : State} (h : s.SenderOk) (hst : s.snd.st = .established)
    (outstanding : s.snd.base.toNat < s.snd.next.toNat) : ∃ t, s.ackDuplicate = .ok t ∧ t.SenderOk := by
  have dup := h.lawful.dup_le
  unfold State.ackDuplicate
  split
  · obtain ⟨u, hu, sent⟩ := State.resendPiece_sent (s := s.countS .dupAck) (h.running (by simp [hst])) h.legal le_rfl
      outstanding
    have hu' : (s.countS .dupAck).sendData s.snd.base.toNat
        (min s.cfg.mss.toNat (s.snd.next.toNat - s.snd.base.toNat)) = .ok u := hu
    have cfg : u.cfg = s.cfg := sent.cfg
    rw [hu']
    refine ⟨_, rfl, ?_, ?_, sent.legal⟩
    · simpa [cfg] using h.lawful.setDup hst (d := 0#2) (by decide)
    · simpa [cfg] using h.retry
  · next hthird =>
    have small : s.snd.dupCnt.toNat + 1 ≤ 2 := by
      have : Config.dupThresh = 3 := rfl
      omega
    have value : (BitVec.ofNat 2 (s.snd.dupCnt.toNat + 1)).toNat ≤ 2 := (Nat.mod_le _ _).trans small
    rw [fit_eq_ok.mpr ⟨by omega, rfl⟩]
    exact ⟨_, rfl, h.lawful.setDup hst value, h.retry, h.legal⟩

theorem State.SenderOk.rxEstablished {s : State} (h : s.SenderOk) (hst : s.snd.st = .established) (k : SndKind)
    (g : Segment) : ∃ t, s.rxEstablished k g = .ok t ∧ t.SenderOk := by
  unfold State.rxEstablished
  split
  · next hack => exact h.ackProgress hst hack.2.1 hack.2.2
  · split
    · next hdup => exact h.ackDuplicate hst hdup.2.2
    · exact ⟨_, rfl, h.countS _ _⟩

/-- R90: a run that ends with success leaves the sender closed and its timer disarmed. -/
theorem State.SenderOk.rxSndClosing {s : State} (h : s.SenderOk) (hst : s.snd.st = .closing) (k : SndKind)
    (g : Segment) : (s.rxSndClosing k g).SenderOk := by
  have run := h.running (by simp [hst])
  unfold State.rxSndClosing
  split
  · exact ⟨.ended rfl (by simp [run.notFailed]) rfl rfl run.dup, h.retry, h.legal⟩
  · exact h.countS _ _

theorem State.SenderOk.rxSndFrame {s : State} (h : s.SenderOk) (f : Bytes) :
    ∃ t, s.rxSndFrame f = .ok t ∧ t.SenderOk := by
  rcases s.rxSndFrame_cases f with ⟨g, k, -, -, -, e⟩ | ⟨-, c, e⟩
  · rw [e]
    cases hst : s.snd.st with
    | closed => exact ⟨s, by simp only [State.rxSndState, hst], h⟩
    | synSent => simpa only [State.rxSndState, hst] using h.rxSynSent (by simp [hst]) k g
    | established => simpa only [State.rxSndState, hst] using h.rxEstablished hst k g
    | closing => exact ⟨_, by simp only [State.rxSndState, hst], h.rxSndClosing hst k g⟩
  · exact ⟨_, e, h.countS _ _⟩

/-! ### `S.TICK` (R91, R92) -/

/-- The Go-Back-N loop of R91 reads only what is outstanding. -/
theorem State.resendLoop_sent {s : State} (run : s.snd.Running s.cfg) (legal : s.fwd.Legal) {k p : Nat}
    (low : s.snd.base.toNat ≤ p) : ∃ t, State.resendLoop k p s = .ok t ∧ s.Sent t := by
  induction k generalizing p s with
  | zero => exact ⟨s, rfl, rfl, rfl, legal⟩
  | succ k ih =>
    rw [State.resendLoop]
    by_cases hp : p < s.snd.next.toNat
    · obtain ⟨u, hu, sent⟩ := State.resendPiece_sent run legal low hp
      have run' : u.snd.Running u.cfg := by
        rw [sent.snd, sent.cfg]
        exact run
      rw [if_pos hp, hu]
      obtain ⟨t, ht, rest⟩ := ih (s := u.countS .retxTo) run' sent.legal
        (p := p + min s.cfg.mss.toNat (s.snd.next.toNat - p)) (by rw [State.countS_snd, sent.snd]; omega)
      exact ⟨t, ht, sent.trans ⟨rest.snd, rest.cfg, rest.legal⟩⟩
    · exact ⟨s, if_neg hp, rfl, rfl, legal⟩

theorem State.resend_sent {s : State} (run : s.snd.Running s.cfg) (legal : s.fwd.Legal) :
    ∃ t, s.resend = .ok t ∧ s.Sent t := by
  unfold State.resend
  split
  · exact ⟨_, rfl, rfl, rfl, legal.send _⟩
  · exact State.resendLoop_sent run legal le_rfl
  · exact ⟨_, rfl, rfl, rfl, legal.send _⟩
  · exact ⟨s, rfl, rfl, rfl, legal⟩

/-- The expiry of R91 and R92 for a sender whose registers would be lawful with the timer restarted: the budget decides
between the end of the run and one more resend. -/
theorem State.expire_senderOk {s : State} (run : s.snd.Running s.cfg) (legal : s.fwd.Legal)
    (restart : ∀ r : Half, r.toNat ≤ s.cfg.maxRetry.toNat →
      ({ s.snd with retry := r, armed := true, tmrCnt := s.cfg.rtoTicks } : Sender).Lawful s.cfg) :
    ∃ t, s.expire = .ok t ∧ t.SenderOk := by
  have retry := run.retry
  unfold State.expire
  split
  · exact ⟨_, rfl, .ended rfl (by simp [run.notDone]) rfl rfl run.dup, run.retry, legal⟩
  · next hne =>
    have below : s.snd.retry.toNat + 1 ≤ s.cfg.maxRetry.toNat :=
      lt_of_le_of_ne retry fun e => hne (BitVec.eq_of_toNat_eq e)
    have fits : s.snd.retry.toNat + 1 < 2 ^ 16 := lt_of_le_of_lt below s.cfg.maxRetry.isLt
    have value : (BitVec.ofNat 16 (s.snd.retry.toNat + 1)).toNat ≤ s.cfg.maxRetry.toNat :=
      (Nat.mod_le _ _).trans below
    rw [fit_eq_ok.mpr ⟨fits, rfl⟩]
    obtain ⟨u, hu, sent⟩ := State.resend_sent
      (s := s.setSnd { s.snd with retry := BitVec.ofNat 16 (s.snd.retry.toNat + 1) }) { run with retry := value } legal
    have cfg : u.cfg = s.cfg := sent.cfg
    simp only [hu]
    refine ⟨_, rfl, ?_, ?_, sent.legal⟩
    · simpa [sent.snd, cfg] using restart _ value
    · simpa [sent.snd, cfg] using value

/-- R91: a tick of an armed timer answers, and keeps the laws. -/
theorem State.SenderOk.tick {s : State} (h : s.SenderOk) (ha : s.snd.armed = true) :
    ∃ t, s.tick = .ok t ∧ t.SenderOk := by
  obtain ⟨pos, max⟩ := h.lawful.armed_count ha
  have run := h.running (h.lawful.open_of_armed ha)
  have nonzero : s.snd.tmrCnt ≠ 0#32 := fun e => by simp [e] at pos
  unfold State.tick
  rw [if_neg nonzero]
  by_cases hone : s.snd.tmrCnt - 1#32 = 0#32
  · rw [if_neg (not_not.mpr hone)]
    exact State.expire_senderOk (s := s.countDown) { run with } h.legal
      fun r hr => h.lawful.restart ha hr run.rto_pos le_rfl
  · rw [if_pos hone]
    have counted : s.countDown.snd
        = { s.snd with retry := s.snd.retry, armed := true, tmrCnt := s.snd.tmrCnt - 1#32 } := by
      rw [← ha]
      rfl
    refine ⟨_, rfl, ?_, h.retry, h.legal⟩
    rw [counted]
    exact h.lawful.restart ha h.retry (by bv_omega) (by bv_omega)

/-! ### The operations -/

/-- R83: a new run obeys the laws. -/
theorem Sender.opened_lawful {k : CfgRegs} (hk : k.runnable) :
    ({ Sender.reset.opened k with armed := true, tmrCnt := k.rtoTicks } : Sender).Lawful k := by
  obtain ⟨mss, maxWin, rto, fits⟩ := hk
  have latched : (BitVec.ofNat 32 (k.isn.toNat + k.totalLen.toNat)).toNat = k.isn.toNat + k.totalLen.toNat := by
    rw [BitVec.toNat_ofNat]
    exact Nat.mod_eq_of_lt (by omega)
  have run : ({ Sender.reset.opened k with armed := true, tmrCnt := k.rtoTicks } : Sender).Running k :=
    { notDone := rfl, notFailed := rfl, dup := Nat.zero_le _, retry := Nat.zero_le _, isnBase := le_rfl
      baseNext := le_rfl, nextEnd := (Nat.le_add_right _ _).trans latched.ge, window := by simp [Sender.opened]
      latched, mss, maxWin, rto }
  exact .synSent rfl run (run.timerLaw_armed trivial rfl rfl rfl) rfl rfl

/-- Only a sender that has not run is closed with neither flag set (R29). -/
theorem Sender.Lawful.eq_reset {k : CfgRegs} {x : Sender} (h : x.Lawful k) (hst : x.st = .closed)
    (hd : x.done = false) (hf : x.fail = false) : x = Sender.reset := by
  cases h with
  | fresh values => exact values
  | ended _ one => exact absurd (hd.trans hf.symm) one
  | synSent st => simp [st] at hst
  | established st => simp [st] at hst
  | closing st => simp [st] at hst

/-- What a sender operation leaves of the laws: either the working registers stand, or the retry count is in its
budget. -/
structure State.SenderStep (s t : State) : Prop where
  lawful : t.snd.Lawful t.cfg
  legal : t.fwd.Legal
  retry : t.snd = s.snd ∨ t.snd.retry.toNat ≤ t.cfg.maxRetry.toNat

theorem State.SenderOk.step {s t : State} (h : t.SenderOk) (r : Results) : s.SenderStep (t.answer r) :=
  ⟨h.lawful, h.legal, .inr h.retry⟩

theorem execSOpen_senderStep {s : State} (h : s.snd.Lawful s.cfg) (legal : s.fwd.Legal) :
    ∃ t, execSOpen s = .next t ∧ s.SenderStep t := by
  rcases execSOpen_cases s with ⟨o, e⟩ | ⟨hst, hd, hf, hk, e⟩
  · exact ⟨_, e, h, legal, .inl rfl⟩
  · refine ⟨_, e, ?_, legal.send _, .inr (Nat.zero_le _)⟩
    have opened := Sender.opened_lawful hk
    rw [← h.eq_reset hst hd hf] at opened
    exact opened

theorem execSRx_senderStep {s : State} (h : s.snd.Lawful s.cfg) (legal : s.fwd.Legal) (f : Bytes) :
    ∃ t, execSRx f s = .next t ∧ s.SenderStep t := by
  by_cases hst : s.snd.st = .closed
  · exact ⟨_, execSRx_closed f hst, h, legal, .inl rfl⟩
  · obtain ⟨u, hu, ok⟩ := ((State.senderOk_of_open h hst legal).countS .segRcvd 1).rxSndFrame f
    exact ⟨_, by rw [execSRx_active f hst, hu, State.answerSnd_ok], ok.step _⟩

theorem execSTick_senderStep {s : State} (h : s.snd.Lawful s.cfg) (legal : s.fwd.Legal) :
    ∃ t, execSTick s = .next t ∧ s.SenderStep t := by
  cases ha : s.snd.armed with
  | false => exact ⟨_, execSTick_disarmed ha, h, legal, .inl rfl⟩
  | true =>
    obtain ⟨u, hu, ok⟩ := (State.senderOk_of_open h (h.open_of_armed ha) legal).tick ha
    exact ⟨_, by rw [execSTick_armed ha, hu, State.answerSnd_ok], ok.step _⟩

/-- From a state with the laws every sender operation answers, and keeps the laws (93_implementation_defined.md,
R39). -/
theorem exec_senderStep {i : Instr} (hi : isSenderOp i = true) {s : State} (h : s.snd.Lawful s.cfg)
    (legal : s.fwd.Legal) : ∃ t, exec i s = .next t ∧ s.SenderStep t := by
  cases i with
  | sOpen => exact execSOpen_senderStep h legal
  | sRx f => exact execSRx_senderStep h legal f
  | sTick => exact execSTick_senderStep h legal
  | _ => cases hi

end Sys2Proof.Machine
end

section
/-! SUPPORT. The receiver's operations: everything a frame can do to the cursor registers and the sink, and the laws they
keep (43_receiver.md R101 to R107). -/

namespace Sys2Proof.Machine

/-- What the frame `f` can do to the receiver's registers and the sink (R102, R103, R105; every other rule keeps both). -/
inductive ReceiverEffect (f : Bytes) (s t : State) : Prop
  | kept (rcv : t.rcv = s.rcv) (sink : t.sink = s.sink)
  | opened (st : s.rcv.st = .listening) (irs : Word)
      (rcv : t.rcv = { st := .established, expected := irs, irs := irs }) (sink : t.sink = s.sink)
  | finished (st : s.rcv.st = .established) (rcv : t.rcv = { s.rcv with st := .closing }) (sink : t.sink = s.sink)
  | delivered (g : Segment) (decoded : dec f = some g) (st : s.rcv.st = .established)
      (cursor : g.seq = s.rcv.expected) (fits : s.rcv.expected.toNat + g.len.toNat ≤ Config.maxSeq)
      (rcv : t.rcv = { s.rcv with expected := s.advanced g }) (sink : t.sink = s.sink ++ g.payload)

/-- The effect of a frame, and the laws of the channel that its reply passes. -/
structure ReceiverStep (f : Bytes) (s t : State) : Prop where
  effect : ReceiverEffect f s t
  legal : s.rev.Legal → t.rev.Legal

theorem State.countR_step (s : State) (f : Bytes) (c : RcvCtr) (n : Nat) : ReceiverStep f s (s.countR c n) :=
  ⟨.kept rfl rfl, id⟩

theorem State.sendReply_step (s : State) (f : Bytes) (k : Byte) (a : Word) : ReceiverStep f s (s.sendReply k a) :=
  ⟨.kept rfl rfl, fun h => h.send _⟩

theorem State.rxListening_step (s : State) (hst : s.rcv.st = .listening) (f : Bytes) (k : RcvKind) (g : Segment) :
    ReceiverStep f s (s.rxListening k g) := by
  unfold State.rxListening
  split
  · exact ⟨.opened hst g.seq rfl rfl, fun h => h.send _⟩
  · exact s.countR_step f _ _

theorem State.rxData_step (s : State) (hst : s.rcv.st = .established) {f : Bytes} {g : Segment} (hg : dec f = some g) :
    ReceiverStep f s (s.rxData g) := by
  unfold State.rxData
  split
  · next hseq =>
    split
    · exact s.countR_step f _ _
    · next hfits => exact ⟨.delivered g hg hst hseq (Nat.le_of_not_lt hfits) rfl rfl, fun h => h.send _⟩
  · split <;> exact ⟨.kept rfl rfl, fun h => h.send _⟩

theorem State.rxSynAgain_step (s : State) (f : Bytes) (g : Segment) : ReceiverStep f s (s.rxSynAgain g) := by
  unfold State.rxSynAgain
  split
  · exact s.sendReply_step f _ _
  · exact s.countR_step f _ _

theorem State.rxFin_step (s : State) (hst : s.rcv.st = .established) (f : Bytes) (g : Segment) :
    ReceiverStep f s (s.rxFin g) := by
  unfold State.rxFin
  split
  · exact ⟨.finished hst rfl rfl, fun h => h.send _⟩
  · exact s.countR_step f _ _

theorem State.rxRcvClosing_step (s : State) (f : Bytes) (k : RcvKind) (g : Segment) :
    ReceiverStep f s (s.rxRcvClosing k g) := by
  unfold State.rxRcvClosing
  split
  · exact s.sendReply_step f _ _
  · exact s.countR_step f _ _

theorem State.rxRcvState_step (s : State) {f : Bytes} {g : Segment} (hg : dec f = some g) (k : RcvKind) :
    ReceiverStep f s (s.rxRcvState k g) := by
  unfold State.rxRcvState
  split
  · next hst => exact s.rxListening_step hst f k g
  · next hst =>
    cases k with
    | syn => exact s.rxSynAgain_step f g
    | fin => exact s.rxFin_step hst f g
    | data => exact s.rxData_step hst hg
  · exact s.rxRcvClosing_step f k g
  · exact ⟨.kept rfl rfl, id⟩

/-- Everything an arriving frame can do to the registers and the sink, whatever the state and the frame (R101). -/
theorem State.rxRcvFrame_step (s : State) (f : Bytes) : ReceiverStep f s (s.rxRcvFrame f) := by
  unfold State.rxRcvFrame
  split
  · exact s.countR_step f _ _
  · next g hg =>
    split
    · exact s.countR_step f _ _
    · next k _ =>
      split
      · exact s.countR_step f _ _
      · exact s.rxRcvState_step hg k

/-- The cursor after a delivery that fits does not wrap (R103). -/
theorem State.advanced_toNat {s : State} {g : Segment} (fits : s.rcv.expected.toNat + g.len.toNat ≤ Config.maxSeq) :
    (s.advanced g).toNat = s.rcv.expected.toNat + g.len.toNat := by
  have hmax : Config.maxSeq = 2 ^ 32 - 1 := rfl
  rw [State.advanced, BitVec.toNat_ofNat]
  exact Nat.mod_eq_of_lt (by omega)

theorem ReceiverEffect.lawful {f : Bytes} {s t : State} (e : ReceiverEffect f s t) (h : s.rcv.Lawful) :
    t.rcv.Lawful := by
  cases e with
  | kept rcv => exact rcv ▸ h
  | opened _ irs rcv => exact rcv ▸ ⟨fun hst => (nomatch hst), le_rfl⟩
  | finished _ rcv => exact rcv ▸ ⟨fun hst => (nomatch hst), h.received⟩
  | delivered g _ st _ fits rcv =>
    rw [rcv]
    refine ⟨fun hst => by simp [st] at hst, ?_⟩
    simp only [State.advanced_toNat fits]
    exact h.received.trans (Nat.le_add_right _ _)

theorem State.SinkMatches.of_eq {s t : State} (h : s.SinkMatches) (rcv : t.rcv = s.rcv) (sink : t.sink = s.sink) :
    t.SinkMatches := by
  unfold State.SinkMatches at *
  rw [sink, rcv, h]

/-- R39 item 8: a frame moves the cursor by as many bytes as it appends to the sink. -/
theorem ReceiverEffect.sinkMatches {f : Bytes} {s t : State} (e : ReceiverEffect f s t) (h : s.rcv.Lawful)
    (hs : s.SinkMatches) : t.SinkMatches := by
  have length : s.sink.length = s.rcv.expected.toNat - s.rcv.irs.toNat := hs
  cases e with
  | kept rcv sink => exact hs.of_eq rcv sink
  | opened st irs rcv sink =>
    obtain ⟨expected, -⟩ := h.listening st
    simp [State.SinkMatches, rcv, sink, length, expected]
  | finished _ rcv sink => rw [State.SinkMatches, rcv, sink, length]
  | delivered g decoded _ _ fits rcv sink =>
    have received := h.received
    simp only [State.SinkMatches, rcv, sink, List.length_append, length, ← dec_len decoded, State.advanced_toNat fits]
    omega

/-- What a receiver operation keeps of the laws. -/
structure State.ReceiverKeeps (s t : State) : Prop where
  lawful : s.rcv.Lawful → t.rcv.Lawful
  legal : s.rev.Legal → t.rev.Legal
  sink : s.rcv.Lawful → s.SinkMatches → t.SinkMatches

/-- A state with the same receiver, channel and sink. -/
theorem State.ReceiverKeeps.of_eq {s t : State} (rcv : t.rcv = s.rcv) (rev : t.rev = s.rev) (sink : t.sink = s.sink) :
    s.ReceiverKeeps t :=
  ⟨fun h => rcv ▸ h, fun h => rev ▸ h, fun _ h => h.of_eq rcv sink⟩

theorem execRRx_keeps {s t : State} {f : Bytes} (h : execRRx f s = .next t) : s.ReceiverKeeps t := by
  by_cases hst : s.rcv.st = .closed
  · cases (execRRx_closed f hst).symm.trans h
    exact .of_eq rfl rfl rfl
  · cases (execRRx_active f hst).symm.trans h
    have step := State.rxRcvFrame_step (s.countR .segRcvd) f
    exact ⟨step.effect.lawful, step.legal, step.effect.sinkMatches⟩

theorem execRClose_keeps {s t : State} (h : execRClose s = .next t) : s.ReceiverKeeps t := by
  by_cases hst : s.rcv.st = .closing
  · cases (execRClose_closing hst).symm.trans h
    exact ⟨fun law => ⟨fun e => (nomatch e), law.received⟩, id, fun _ => id⟩
  · cases (execRClose_refused hst).symm.trans h
    exact .of_eq rfl rfl rfl

/-- Every receiver operation keeps the laws of the receiver, its channel and the sink (R39 items 8 and 9). -/
theorem exec_receiverKeeps {i : Instr} {s t : State} (hi : isReceiverOp i = true) (h : exec i s = .next t) :
    s.ReceiverKeeps t := by
  cases i with
  | rRx f => exact execRRx_keeps h
  | rClose => exact execRClose_keeps h
  | _ => cases hi

end Sys2Proof.Machine
end

section
/-! The laws of the state as an invariant of the machine (10_state.md R39). -/

namespace Sys2Proof.Machine

/-! ### One operation -/

/-- A sender operation from a coherent state. -/
theorem State.Coherent.senderStep {s t : State} (c : s.Coherent) {i : Instr} (hi : isSenderOp i = true)
    (h : exec i s = .next t) : s.SenderStep t := by
  obtain ⟨u, hu, step⟩ := exec_senderStep hi c.sender c.others.fwd
  cases hu.symm.trans h
  exact step

/-- Nothing in the block faults: every operation from a coherent state answers (93_implementation_defined.md). -/
theorem exec_answers {s : State} (c : s.Coherent) (i : Instr) : ∃ t, exec i s = .next t := by
  by_cases hs : isSenderOp i = true
  · obtain ⟨t, ht, -⟩ := exec_senderStep hs c.sender c.others.fwd
    exact ⟨t, ht⟩
  · by_cases hr : isReceiverOp i = true
    · obtain ⟨t, ht, -⟩ := exec_receiver_frame hr s
      exact ⟨t, ht⟩
    · obtain ⟨t, r, -, ht⟩ := exec_unit_effect (by simpa using hs) (by simpa using hr) s
      exact ⟨_, ht⟩

/-- A unit without an engine changes the configuration only while no run is active, when the sender's laws do not read
it (R37). -/
theorem UnitEffect.senderLawful {i : Instr} {s t : State} (e : UnitEffect i s t) (h : s.snd.Lawful s.cfg) :
    t.snd.Lawful t.cfg := by
  rw [e.frame.snd]
  cases hl : s.unlocked with
  | true => exact h.of_closed ((State.unlocked_iff s).mp hl).1 _
  | false => exact e.cfg_of_locked hl ▸ h

/-- Every operation keeps the laws of the state. -/
theorem exec_coherent {i : Instr} {s t : State} (c : s.Coherent) (h : exec i s = .next t) : t.Coherent := by
  have o := c.others
  rcases exec_cases h with ⟨hi, frame⟩ | ⟨hi, frame⟩ | ⟨u, r, e, rfl⟩
  · have step := c.senderStep hi h
    exact State.coherent_iff.mpr
      ⟨step.lawful, step.legal, frame.rev ▸ o.rev, frame.rcv ▸ o.rcv, frame.src ▸ o.src⟩
  · have keeps := exec_receiverKeeps hi h
    refine State.coherent_iff.mpr ⟨?_, frame.fwd ▸ o.fwd, keeps.legal o.rev, keeps.lawful o.rcv, frame.src ▸ o.src⟩
    rw [frame.snd, frame.cfg]
    exact c.sender
  · obtain ⟨fwd, rev⟩ := e.legal o.fwd o.rev
    exact State.coherent_iff.mpr
      ⟨e.senderLawful c.sender, fwd, rev, e.frame.rcv ▸ o.rcv, e.frame.src ▸ o.src⟩

/-- R39 item 8 across one operation. -/
theorem exec_sinkMatches {i : Instr} {s t : State} (c : s.Coherent) (hs : s.SinkMatches) (h : exec i s = .next t) :
    t.SinkMatches := by
  rcases exec_cases h with ⟨-, frame⟩ | ⟨hi, -⟩ | ⟨u, r, e, rfl⟩
  · exact hs.of_eq frame.rcv frame.sink
  · exact (exec_receiverKeeps hi h).sink c.others.rcv hs
  · exact hs.of_eq e.frame.rcv e.frame.sink

/-! ### The retry budget (R39 item 6) -/

/-- The operation is the write of log 12: after the end of a run, a `CFG_MAX_RETRY` below the `SND_RETRY` that the run
left. -/
def State.LowersRetryBudgetBy (s : State) (i : Instr) (t : State) : Prop :=
  ∃ data, i = .regWr 0x0C#8 data ∧ s.runEnded = true ∧ data.toNat % 2 ^ 16 < s.snd.retry.toNat
    ∧ t.cfg = { s.cfg with maxRetry := BitVec.ofNat 16 (data.toNat % 2 ^ 16) } ∧ t.snd = s.snd

/-- A closed sender has nothing to retry, or its run has ended. -/
theorem Sender.Lawful.retry_of_closed {s : State} (h : s.snd.Lawful s.cfg) (hst : s.snd.st = .closed) :
    s.snd.retry = 0#16 ∨ s.runEnded = true := by
  cases h with
  | fresh values =>
    rw [values]
    exact .inl rfl
  | ended _ one => exact .inr (by simp [State.runEnded, hst, one])
  | synSent st => simp [st] at hst
  | established st => simp [st] at hst
  | closing st => simp [st] at hst

theorem lowHalf_eq_ofNat (data : Word) : lowHalf data = BitVec.ofNat 16 (data.toNat % 2 ^ 16) :=
  BitVec.eq_of_toNat_eq (by simp [lowHalf])

theorem lowHalf_toNat (data : Word) : (lowHalf data).toNat = data.toNat % 2 ^ 16 := by simp [lowHalf]

/-- An accepted write of `CFG_MAX_RETRY` keeps the budget above the count, but for the one write of log 12. -/
theorem State.writeMaxRetry_bounded {s : State} (h : s.snd.Lawful s.cfg) (hst : s.snd.st = .closed) (data : Word) :
    s.snd.retry.toNat ≤ (s.writeCsr data .cfgMaxRetry).cfg.maxRetry.toNat
      ∨ s.LowersRetryBudgetBy (.regWr 0x0C#8 data) (s.writeCsr data .cfgMaxRetry) := by
  by_cases hle : s.snd.retry.toNat ≤ data.toNat % 2 ^ 16
  · exact .inl (hle.trans (lowHalf_toNat data).ge)
  · rcases Sender.Lawful.retry_of_closed h hst with hzero | hended
    · simp [hzero] at hle
    · refine .inr ⟨data, rfl, hended, Nat.lt_of_not_le hle, ?_, rfl⟩
      rw [← lowHalf_eq_ofNat]
      rfl

/-- A unit without an engine keeps the retry budget, but for the one write of log 12. -/
theorem UnitEffect.retryBounded {i : Instr} {s t : State} (e : UnitEffect i s t) (h : s.snd.Lawful s.cfg)
    (hb : s.snd.retry.toNat ≤ s.cfg.maxRetry.toNat) :
    t.snd.retry.toNat ≤ t.cfg.maxRetry.toNat ∨ s.LowersRetryBudgetBy i t := by
  cases e with
  | nothing => exact .inl hb
  | decided d => cases d <;> exact .inl hb
  | sent d f => cases d <;> exact .inl hb
  | written r data operation lock =>
    by_cases hr : r = .cfgMaxRetry
    · subst hr
      rw [operation]
      exact State.writeMaxRetry_bounded h ((State.unlocked_iff s).mp (lock rfl)).1 data
    · rw [State.writeCsr_maxRetry s data hr, State.writeCsr_snd]
      exact .inl hb

/-- R39 item 6 across one operation, with the exception of log 12. -/
theorem exec_retryBounded {i : Instr} {s t : State} (c : s.Coherent) (hb : s.RetryBounded) (h : exec i s = .next t) :
    t.RetryBounded ∨ s.LowersRetryBudgetBy i t := by
  have dup := (exec_coherent c h).dupBound
  rcases exec_cases h with ⟨hi, frame⟩ | ⟨-, frame⟩ | ⟨u, r, e, rfl⟩
  · refine .inl ⟨dup, ?_⟩
    rcases (c.senderStep hi h).retry with hsnd | hle
    · rw [hsnd, frame.cfg]
      exact hb.2
    · exact hle
  · refine .inl ⟨dup, ?_⟩
    rw [frame.snd, frame.cfg]
    exact hb.2
  · exact (e.retryBounded c.sender hb.2).imp (fun hle => ⟨dup, hle⟩) id

/-! ### One input -/

/-- The laws do not read the schedule, the arbiter's turn or the response. -/
theorem State.Coherent.with_inputs {s : State} (c : s.Coherent) (inputs : List (List Input)) (turn : Nat)
    (r : Option Response) :
    ({ s with inputs := inputs, arbiterTurn := turn, response := r } : State).Coherent := by
  have o := c.others
  exact State.coherent_iff.mpr ⟨c.sender, o.fwd, o.rev, o.rcv, o.src⟩

/-- The reset input gives every register its reset value and keeps the source (R150). -/
theorem State.applyReset_coherent {s : State} (hsrc : s.src.wf = true) : s.applyReset.Coherent :=
  State.coherent_iff.mpr ⟨.fresh rfl, InjChan.legal_reset, InjChan.legal_reset, Receiver.lawful_reset, hsrc⟩

/-- The host's preparing of a run, where it is legal: the new source and an empty sink (R151; log 7). -/
theorem State.startRun_eq_next {s t : State} {source : Bytes} (h : s.startRun source = .next t) :
    t = { s with src := Memory.ofBytes 0 source, sink := [], response := none } := by
  unfold State.startRun at h
  split at h
  · cases h
    rfl
  · cases h

/-- Everything performing one input can do. -/
theorem perform_cases {x : Input} {s t : State} (h : perform x s = .next t) :
    (∃ r i, x = .record r ∧ decode r = .ok i ∧ exec i s = .next t)
      ∨ (∃ r, x = .record r ∧ s.raise .illegalOp = .next t)
      ∨ (x = .reset ∧ t = s.applyReset)
      ∨ ∃ source, x = .newRun source
          ∧ t = { s with src := Memory.ofBytes 0 source, sink := [], response := none } := by
  cases x with
  | record r =>
    cases hd : decode r with
    | ok i => exact .inl ⟨r, i, rfl, hd, by simpa only [perform, hd] using h⟩
    | error e => exact .inr (.inl ⟨r, rfl, by simpa only [perform, hd] using h⟩)
  | reset =>
    cases h
    exact .inr (.inr (.inl ⟨rfl, rfl⟩))
  | newRun source => exact .inr (.inr (.inr ⟨source, rfl, State.startRun_eq_next h⟩))

theorem perform_coherent {x : Input} {s t : State} (c : s.Coherent) (h : perform x s = .next t) : t.Coherent := by
  rcases perform_cases h with ⟨r, i, -, -, he⟩ | ⟨r, -, he⟩ | ⟨-, rfl⟩ | ⟨source, -, rfl⟩
  · exact exec_coherent c he
  · cases he
    exact c.with_inputs s.inputs s.arbiterTurn _
  · exact State.applyReset_coherent c.source
  · have o := c.others
    exact State.coherent_iff.mpr ⟨c.sender, o.fwd, o.rev, o.rcv, Memory.ofBytes_wf 0 source⟩

theorem perform_retryBounded {x : Input} {s t : State} (c : s.Coherent) (hb : s.RetryBounded)
    (h : perform x s = .next t) :
    t.RetryBounded ∨ ∃ r i, x = .record r ∧ decode r = .ok i ∧ s.LowersRetryBudgetBy i t := by
  rcases perform_cases h with ⟨r, i, hx, hd, he⟩ | ⟨r, -, he⟩ | ⟨-, rfl⟩ | ⟨source, -, rfl⟩
  · exact (exec_retryBounded c hb he).imp id fun low => ⟨r, i, hx, hd, low⟩
  · cases he
    exact .inl hb
  · exact .inl ⟨Nat.zero_le _, Nat.zero_le _⟩
  · exact .inl hb

/-- Performing an input leaves what is still presented. -/
theorem perform_inputs {x : Input} {s t : State} (h : perform x s = .next t) : t.inputs = s.inputs := by
  rcases perform_cases h with ⟨r, i, -, -, he⟩ | ⟨r, -, he⟩ | ⟨-, rfl⟩ | ⟨source, -, rfl⟩
  · exact exec_inputs he
  · cases he
    rfl
  · rfl
  · rfl

/-- A command record from a coherent state answers. -/
theorem perform_answers {x : Input} {s : State} (c : s.Coherent) (hx : ∀ source, x ≠ .newRun source) :
    ∃ t, perform x s = .next t := by
  cases x with
  | record r =>
    cases hd : decode r with
    | ok i =>
      obtain ⟨t, ht⟩ := exec_answers c i
      exact ⟨t, by simp only [perform, hd, ht]⟩
    | error e => exact ⟨_, by simp only [perform, hd]; rfl⟩
  | reset => exact ⟨_, rfl⟩
  | newRun source => exact absurd rfl (hx source)

/-! ### One step -/

/-- Everything one step can do: nothing of the block changes, or one presented input is performed. -/
theorem step_cases {s t : State} (h : step s = .next t) :
    (∃ inputs, t = { s with inputs := inputs })
      ∨ ∃ now rest x, s.inputs = now :: rest ∧ x ∈ now ∧ perform x (s.take now rest) = .next t := by
  rcases arbiterStep_cases s with ⟨-, e⟩ | ⟨rest, -, e⟩ | ⟨now, rest, x, hin, hx, -, e⟩
  · cases e.symm.trans h
    exact .inl ⟨s.inputs, rfl⟩
  · cases e.symm.trans h
    exact .inl ⟨rest, rfl⟩
  · exact .inr ⟨now, rest, x, hin, List.mem_of_getElem? hx, e.symm.trans h⟩

theorem State.Coherent.take {s : State} (c : s.Coherent) (now : List Input) (rest : List (List Input)) :
    (s.take now rest).Coherent :=
  c.with_inputs _ _ s.response

/-- Every input that remains presented was presented before. -/
theorem mem_remaining {now l : List Input} {rest : List (List Input)} {k : Nat} (hl : l ∈ remaining now k rest) :
    ∃ m ∈ now :: rest, l ⊆ m := by
  have later : l ∈ rest → ∃ m ∈ now :: rest, l ⊆ m := fun h => ⟨l, List.mem_cons_of_mem _ h, fun _ => id⟩
  unfold remaining at hl
  split at hl
  · exact later hl
  · rcases List.mem_cons.mp hl with rfl | h
    · exact ⟨now, List.mem_cons_self, List.eraseIdx_subset⟩
    · exact later h

/-- What every presented input has, every input still presented after a step has. -/
theorem step_keeps_presented {P : Input → Prop} {s t : State} (hp : ∀ now ∈ s.inputs, ∀ x ∈ now, P x)
    (h : step s = .next t) : ∀ now ∈ t.inputs, ∀ x ∈ now, P x := by
  rcases arbiterStep_cases s with ⟨-, e⟩ | ⟨rest, hin, e⟩ | ⟨now, rest, x, hin, -, -, e⟩
  · cases e.symm.trans h
    exact hp
  · cases e.symm.trans h
    exact fun m hm => hp m (hin ▸ List.mem_cons_of_mem _ hm)
  · rw [perform_inputs (e.symm.trans h), State.take_inputs]
    intro l hl y hy
    obtain ⟨m, hm, hsub⟩ := mem_remaining hl
    exact hp m (hin ▸ hm) y (hsub hy)

theorem step_coherent {s t : State} (c : s.Coherent) (h : step s = .next t) : t.Coherent := by
  rcases step_cases h with ⟨inputs, rfl⟩ | ⟨now, rest, x, -, -, hp⟩
  · exact c.with_inputs inputs s.arbiterTurn s.response
  · exact perform_coherent (c.take now rest) hp

/-- R39 item 6 across one step, with the exception of log 12. -/
theorem step_retryBounded {s t : State} (c : s.Coherent) (hb : s.RetryBounded) (h : step s = .next t) :
    t.RetryBounded ∨ s.LowersRetryBudget t := by
  rcases step_cases h with ⟨inputs, rfl⟩ | ⟨now, rest, x, hin, hx, hp⟩
  · exact .inl hb
  · refine (perform_retryBounded (c.take now rest) hb hp).imp id ?_
    rintro ⟨r, i, rfl, hd, data, rfl, hended, hlow, hcfg, hsnd⟩
    exact ⟨hended, now, rest, r, data, hin, hx, hd, hlow, hcfg, hsnd⟩

/-- Settles O56: the laws are those of the units, each operation keeps them, and of the retry budget the one write of
log 12 is left. -/
theorem stepKeepsCoherent : Obligations.StepKeepsCoherent :=
  fun _ _ c h => ⟨step_coherent c h, fun hb => step_retryBounded c hb h⟩

/-- Settles O57: every operation from a coherent state answers, and no step presents anything new. -/
theorem coherentStepsHaveANextState : Obligations.CoherentStepsHaveANextState := by
  intro s c hnew
  have answers : ∃ t, step s = .next t := by
    rcases arbiterStep_cases s with ⟨-, e⟩ | ⟨rest, -, e⟩ | ⟨now, rest, x, hin, hx, -, e⟩
    · exact ⟨_, e⟩
    · exact ⟨_, e⟩
    · obtain ⟨t, ht⟩ := perform_answers (c.take now rest) (x := x) fun source hx' =>
        hnew now (hin ▸ List.mem_cons_self) source (hx' ▸ List.mem_of_getElem? hx)
      exact ⟨t, e.trans ht⟩
  obtain ⟨t, ht⟩ := answers
  have kept := step_keeps_presented (P := fun x => ∀ source, x ≠ .newRun source)
    (fun now hnow x hx source e => hnew now hnow source (e ▸ hx)) ht
  exact ⟨t, ht, fun now hnow source hx => kept now hnow _ hx source rfl⟩

/-- Settles O58: a record keeps the sink's length at the cursor, and only records are performed. -/
theorem stepKeepsTheSinkLength : Obligations.StepKeepsTheSinkLength := by
  intro s t c hrec hs h
  refine ⟨?_, step_keeps_presented hrec h⟩
  rcases step_cases h with ⟨inputs, rfl⟩ | ⟨now, rest, x, hin, hx, hp⟩
  · exact hs
  · obtain ⟨r, rfl⟩ := hrec now (hin ▸ List.mem_cons_self) x hx
    rcases perform_cases hp with ⟨_, i, -, -, he⟩ | ⟨_, -, he⟩ | ⟨hx', -⟩ | ⟨source, hx', -⟩
    · exact exec_sinkMatches (c.take now rest) hs he
    · cases he
      exact hs
    · cases hx'
    · cases hx'

/-- Settles O55: every unit's laws hold of its reset values. -/
theorem resetIsCoherent : Obligations.ResetIsCoherent := by
  refine ⟨?_, ⟨Nat.zero_le _, Nat.zero_le _⟩, rfl⟩
  exact State.coherent_iff.mpr
    ⟨.fresh rfl, InjChan.legal_reset, InjChan.legal_reset, Receiver.lawful_reset, Memory.wf_nil⟩

/-! ### The write of log 12 -/

/-- A sender whose run failed after its two resends, and the host about to write 0 to `CFG_MAX_RETRY`. -/
def State.failedBeforeWrite : State :=
  { State.reset with
    cfg := { CfgRegs.reset with maxRetry := 2#16 }
    snd := { Sender.reset with fail := true, retry := 2#16 }
    inputs := [[.record (encode (.regWr 0x0C#8 0#32))]] }

theorem State.failedBeforeWrite_coherent : State.failedBeforeWrite.Coherent :=
  State.coherent_iff.mpr ⟨.ended rfl (by decide) rfl rfl (by decide), InjChan.legal_reset, InjChan.legal_reset,
    Receiver.lawful_reset, Memory.wf_nil⟩

/-- Refutes O60: the write is accepted since no run is active (R37), and `SND_RETRY = 2` stands above the new budget
0. -/
theorem not_retryBoundOutlivesTheRun : ¬ Obligations.RetryBoundOutlivesTheRun := by
  intro h
  have written : step State.failedBeforeWrite = .next
      { State.failedBeforeWrite with
        cfg := { State.failedBeforeWrite.cfg with maxRetry := 0#16 }
        inputs := []
        response := some ⟨.ok, .none⟩ } :=
    arbiterStep_single State.failedBeforeWrite _ [] rfl
  exact absurd (h _ _ State.failedBeforeWrite_coherent (by decide) written) (by decide)

end Sys2Proof.Machine
end

section
/-! The source memory (20_memory.md R42): no operation writes it, and the one the host prepares is read back. -/

namespace Sys2Proof.Machine

/-! ### What leaves the source unchanged -/

/-- No operation changes the source (R42). -/
theorem exec_src {i : Instr} {s t : State} (h : exec i s = .next t) : t.src = s.src := by
  rcases exec_cases h with ⟨-, frame⟩ | ⟨-, frame⟩ | ⟨u, r, e, rfl⟩
  · exact frame.src
  · exact frame.src
  · exact e.frame.src

/-- Of the inputs only the preparing of a run changes the source (R42, R150; log 7). -/
theorem perform_src {x : Input} {s t : State} (hx : ∀ source, x ≠ .newRun source) (h : perform x s = .next t) :
    t.src = s.src := by
  rcases perform_cases h with ⟨r, i, -, -, he⟩ | ⟨r, -, he⟩ | ⟨-, rfl⟩ | ⟨source, rfl, -⟩
  · exact exec_src he
  · cases he
    rfl
  · rfl
  · exact absurd rfl (hx source)

theorem step_src {s t : State} (hnew : s.NoNewRun) (h : step s = .next t) : t.src = s.src := by
  rcases step_cases h with ⟨inputs, rfl⟩ | ⟨now, rest, x, hin, hx, hp⟩
  · rfl
  · have notNew : ∀ source, x ≠ .newRun source := by
      rintro source rfl
      exact hnew now (hin ▸ List.mem_cons_self) source hx
    exact (perform_src notNew hp).trans (s.take_src now rest)

/-! ### The source of a prepared run -/

/-- The sender reads the byte the host supplied, not the free one (log 1). -/
theorem Memory.sourceAt_ofBytes {bytes : Bytes} {k : Nat} (h : k < bytes.length) :
    (Memory.ofBytes 0 bytes).sourceAt k = bytes[k] := by
  simp [Memory.sourceAt, Memory.read?_ofBytes, h]

/-- The bytes from `CFG_ISN` on are the source's first ones (R42). -/
theorem State.sourceRange_ofBytes {s : State} {bytes : Bytes} (hsrc : s.src = Memory.ofBytes 0 bytes) {n : Nat}
    (h : n ≤ bytes.length) : s.sourceRange s.cfg.isn.toNat n = bytes.take n := by
  refine List.ext_getElem (by simp [State.sourceRange, h]) fun k hk _ => ?_
  have inRange : k < n := by simpa [State.sourceRange] using hk
  simp [State.sourceRange, hsrc, Memory.sourceAt_ofBytes (inRange.trans_le h)]

/-- A run can be prepared while the sender is closed and the receiver listens (R151; log 7). -/
theorem State.startRun_idle {s : State} (hsnd : s.snd.st = .closed) (hrcv : s.rcv.st = .listening) (bytes : Bytes) :
    s.startRun bytes = .next { s with src := Memory.ofBytes 0 bytes, sink := [], response := none } :=
  if_pos ⟨hsnd, hrcv⟩

/-- Settles O59: every effect an input can have keeps the source but for the preparing of a run, whose bytes stand
in the memory at their offsets. -/
theorem sourceIsStable : Obligations.SourceIsStable := by
  refine ⟨fun s t => step_src, fun s bytes rest hin hsnd hrcv => ?_⟩
  have prepared : step s = .next
      { s with inputs := rest, src := Memory.ofBytes 0 bytes, sink := [], response := none } :=
    (arbiterStep_single s _ rest hin).trans (State.startRun_idle (s := { s with inputs := rest }) hsnd hrcv bytes)
  exact ⟨_, prepared, rfl, rfl, rfl, rfl, rfl, fun _ => State.sourceRange_ofBytes rfl⟩

end Sys2Proof.Machine
end

section
/-! The command records (30_encoding.md R55 to R58): the decoder reads the record of an operation and nothing else. -/

namespace Sys2Proof

/-! ### An operation's operands at the head of a byte string -/

/-- A `bytes` operand is read, and what follows it has to be nothing. -/
theorem decodeBytes_encBytes_append (k : Bytes → Instr) {s : Bytes} (h : bytesFit s) (t : Bytes) :
    decodeBytes k (encBytes s ++ t) = endRecord (k s) t := by
  simp only [decodeBytes, takeBytes_encBytes s t h]

/-- A `u32` operand is read after a `u8` one, and what follows them has to be nothing. -/
theorem decodeU8U32_append (k : Byte → Word → Instr) (b : Byte) (w : Word) (t : Bytes) :
    decodeU8U32 k (b :: (encU32 w ++ t)) = endRecord (k b w) t := by
  simp only [decodeU8U32, takeU8, takeU32_encU32]

/-- The four operands of `SEG.ENC` are read, and what follows them has to be nothing. -/
theorem decodeSegEnc_append (flags : Byte) (seq ack : Word) {s : Bytes} (h : bytesFit s) (t : Bytes) :
    decodeSegEnc (flags :: (encU32 seq ++ (encU32 ack ++ (encBytes s ++ t))))
      = endRecord (.segEnc flags seq ack s) t := by
  simp only [decodeSegEnc, takeU8, takeU32_encU32, decodeBytes_encBytes_append _ h]

/-- The decoder reads an operation off the head of its record and asks that the record ends there (R55, R58). -/
theorem decode_encode_append {i : Instr} (h : i.wellFormed = true) (t : Bytes) :
    decode (encode i ++ t) = endRecord i t := by
  cases i with
  | crcGen data => exact decodeBytes_encBytes_append _ (of_decide_eq_true h) t
  | segEnc flags seq ack payload =>
    have hread := decodeSegEnc_append flags seq ack (of_decide_eq_true h) t
    rwa [← List.append_assoc, ← List.append_assoc] at hread
  | segDec frame => exact decodeBytes_encBytes_append _ (of_decide_eq_true h) t
  | leDecide dir => rfl
  | leSend dir frame => exact decodeBytes_encBytes_append _ (of_decide_eq_true h) t
  | sOpen => rfl
  | sRx frame => exact decodeBytes_encBytes_append _ (of_decide_eq_true h) t
  | sTick => rfl
  | rRx frame => exact decodeBytes_encBytes_append _ (of_decide_eq_true h) t
  | rClose => rfl
  | regRd addr => rfl
  | regWr addr data => exact decodeU8U32_append _ addr data t

/-- Settles O3: the decoder reads the operation off its record, and nothing follows. -/
theorem decodeOfEncodeIsTheOperation : Obligations.DecodeOfEncodeIsTheOperation := by
  intro i h
  simpa [endRecord] using decode_encode_append h []

/-! ### What the decoder accepts -/

/-- An accepted record is the record of the operation it decodes to, and its operands are well-formed (R58). -/
theorem encode_of_decodeOp_eq_ok {op : Byte} {t : Bytes} {i : Instr} (h : decodeOp op t = .ok i) :
    i.wellFormed = true ∧ encode i = op :: t := by
  unfold decodeOp at h
  rcases ite_eq_iff.mp h with ⟨rfl, h⟩ | ⟨-, h⟩
  · obtain ⟨s, rfl, hf, rfl⟩ := decodeBytes_eq_ok h
    exact ⟨decide_eq_true hf, rfl⟩
  rcases ite_eq_iff.mp h with ⟨rfl, h⟩ | ⟨-, h⟩
  · obtain ⟨flags, seq, ack, s, rfl, hf, rfl⟩ := decodeSegEnc_eq_ok h
    exact ⟨decide_eq_true hf, rfl⟩
  rcases ite_eq_iff.mp h with ⟨rfl, h⟩ | ⟨-, h⟩
  · obtain ⟨s, rfl, hf, rfl⟩ := decodeBytes_eq_ok h
    exact ⟨decide_eq_true hf, rfl⟩
  rcases ite_eq_iff.mp h with ⟨rfl, h⟩ | ⟨-, h⟩
  · obtain ⟨b, rfl, rfl⟩ := decodeU8_eq_ok h
    exact ⟨rfl, rfl⟩
  rcases ite_eq_iff.mp h with ⟨rfl, h⟩ | ⟨-, h⟩
  · obtain ⟨b, s, rfl, hf, rfl⟩ := decodeU8Bytes_eq_ok h
    exact ⟨decide_eq_true hf, rfl⟩
  rcases ite_eq_iff.mp h with ⟨rfl, h⟩ | ⟨-, h⟩
  · obtain ⟨rfl, rfl⟩ := endRecord_eq_ok h
    exact ⟨rfl, rfl⟩
  rcases ite_eq_iff.mp h with ⟨rfl, h⟩ | ⟨-, h⟩
  · obtain ⟨s, rfl, hf, rfl⟩ := decodeBytes_eq_ok h
    exact ⟨decide_eq_true hf, rfl⟩
  rcases ite_eq_iff.mp h with ⟨rfl, h⟩ | ⟨-, h⟩
  · obtain ⟨rfl, rfl⟩ := endRecord_eq_ok h
    exact ⟨rfl, rfl⟩
  rcases ite_eq_iff.mp h with ⟨rfl, h⟩ | ⟨-, h⟩
  · obtain ⟨s, rfl, hf, rfl⟩ := decodeBytes_eq_ok h
    exact ⟨decide_eq_true hf, rfl⟩
  rcases ite_eq_iff.mp h with ⟨rfl, h⟩ | ⟨-, h⟩
  · obtain ⟨rfl, rfl⟩ := endRecord_eq_ok h
    exact ⟨rfl, rfl⟩
  rcases ite_eq_iff.mp h with ⟨rfl, h⟩ | ⟨-, h⟩
  · obtain ⟨b, rfl, rfl⟩ := decodeU8_eq_ok h
    exact ⟨rfl, rfl⟩
  rcases ite_eq_iff.mp h with ⟨rfl, h⟩ | ⟨-, h⟩
  · obtain ⟨b, w, rfl, rfl⟩ := decodeU8U32_eq_ok h
    exact ⟨rfl, rfl⟩
  cases h

/-- The records the decoder accepts are exactly those of the well-formed operations (R55, R58). -/
theorem decode_eq_ok_iff {r : Bytes} {i : Instr} : decode r = .ok i ↔ i.wellFormed = true ∧ encode i = r := by
  constructor
  · intro h
    cases r with
    | nil => cases h
    | cons op t => exact encode_of_decodeOp_eq_ok h
  · rintro ⟨h, rfl⟩
    exact decodeOfEncodeIsTheOperation i h

/-- The refused records are those of no well-formed operation (R58). -/
theorem decode_eq_error_iff {r : Bytes} :
    (∃ e, decode r = .error e) ↔ ∀ i : Instr, i.wellFormed = true → encode i ≠ r := by
  constructor
  · rintro ⟨e, hd⟩ i hi he
    cases hd.symm.trans (decode_eq_ok_iff.mpr ⟨hi, he⟩)
  · intro hno
    cases hd : decode r with
    | error e => exact ⟨e, rfl⟩
    | ok i =>
      obtain ⟨hi, he⟩ := decode_eq_ok_iff.mp hd
      exact absurd he (hno i hi)

/-- The operation code of a record is one of R56. -/
theorem opcode_mem_of_encode {i : Instr} {op : Byte} {t : Bytes} (h : encode i = op :: t) :
    op.toNat ∈ [0x01, 0x02, 0x03, 0x10, 0x11, 0x20, 0x21, 0x22, 0x30, 0x31, 0x40, 0x41] := by
  cases i <;> (obtain ⟨rfl, -⟩ := List.cons.inj h; decide)

/-- The record of an operation says where it ends: cut short or continued it is no other's record (R55). -/
theorem encode_append_ne_encode {i j : Instr} (hi : i.wellFormed = true) (hj : j.wellFormed = true) {t : Bytes}
    (ht : t ≠ []) : encode i ++ t ≠ encode j := by
  intro h
  have hread : endRecord i t = .ok j := by
    rw [← decode_encode_append hi t, h, decodeOfEncodeIsTheOperation j hj]
  exact ht (endRecord_eq_ok hread).1

/-- Settles O4: the six records are those of their operations. -/
theorem writtenOutRecordsDecode : Obligations.WrittenOutRecordsDecode := by
  unfold Obligations.WrittenOutRecordsDecode
  simp only [decode_eq_ok_iff]
  decide

namespace Machine

/-! ### The step that takes a record -/

/-- Settles O1: an input alone at its instant is the one performed, and a record that decodes is performed by `exec`. -/
theorem stepRunsTheDecodedOperation : Obligations.StepRunsTheDecodedOperation := by
  intro s r rest i hin hd
  have hperform := arbiterStep_single s (.record r) rest hin
  simpa only [step, perform, hd] using hperform

/-- A refused record alone at its instant answers `ILLEGAL_OP` and changes nothing else (R58). -/
theorem step_illegal_record {s : State} {r : Bytes} {rest : List (List Input)} {e : DecodeError}
    (hin : s.inputs = [.record r] :: rest) (hd : decode r = .error e) :
    step s = .next { s with inputs := rest, response := some ⟨.illegalOp, .none⟩ } := by
  have hperform := arbiterStep_single s (.record r) rest hin
  simpa only [step, perform, hd, State.raise] using hperform

/-- Settles O2: the accepted records are those of the well-formed operations, which begin with a known code and none of
which continues another. -/
theorem illegalRecordsAreRefused : Obligations.IllegalRecordsAreRefused := by
  refine ⟨fun op t hop => ?_, fun i t hi ht => ?_, fun i r t hi ht hr => ?_, fun r => ?_,
    fun s r rest e => step_illegal_record⟩
  · exact decode_eq_error_iff.mpr fun i _ he => hop (opcode_mem_of_encode he)
  · exact decode_eq_error_iff.mpr fun j hj he => encode_append_ne_encode hi hj ht he.symm
  · refine decode_eq_error_iff.mpr fun j hj he => encode_append_ne_encode hj hi ht ?_
    rw [he, hr]
  · cases hd : decode r with
    | ok i => exact .inl ⟨i, rfl, decode_eq_ok_iff.mp hd⟩
    | error e => exact .inr ⟨e, rfl⟩

end Machine

end Sys2Proof
end

section
/-! The frame layout (30_encoding.md R50, R53): a frame sealed with the right checksum is parsed field by field, and the
reserved bits are read by no field. -/

namespace Sys2Proof.Machine

/-! ### Slices of a concatenation -/

theorem slice_append_left {a b : Bytes} {j : Nat} (h : j ≤ a.length) (i : Nat) : slice (a ++ b) i j = slice a i j := by
  rw [slice, slice, List.take_append_of_le_length h]

/-- A part between two others is the slice at its place. -/
theorem slice_append_mid (a b c : Bytes) : slice (a ++ b ++ c) a.length (a.length + b.length) = b := by
  rw [slice_append_left (by simp), slice, List.take_of_length_le (by simp), List.drop_left]

theorem slice_take {f : Bytes} {j n : Nat} (h : j ≤ n) (i : Nat) : slice (f.take n) i j = slice f i j := by
  rw [slice, slice, List.take_take, min_eq_left h]

theorem slice_length {f : Bytes} {j : Nat} (h : j ≤ f.length) (i : Nat) : (slice f i j).length = j - i := by
  simp [slice, h]

/-! ### Sealed frames -/

/-- The frame of twelve header bytes and a payload: its checksum field holds the checksum of the frame with that field
zeroed (R50, R62). -/
def sealFrame (head payload : Bytes) : Bytes :=
  head ++ encU32 (crc32 (head ++ zeros 4 ++ payload)) ++ payload

/-- The formatter seals its header. -/
theorem enc_eq_sealFrame (flags : Byte) (seq ack : Word) (payload : Bytes) :
    enc flags seq ack payload = sealFrame (encHead flags seq ack payload) payload := rfl

/-- Reading back a `u32` value gives its number. -/
theorem beNat_encU32 (w : Word) : beNat (encU32 w) = w.toNat := by
  rw [encU32, beNat_beBytes]
  exact Nat.mod_eq_of_lt w.isLt

section
variable {head : Bytes} (hh : head.length = 12) (payload : Bytes)
include hh

theorem sealFrame_length : (sealFrame head payload).length = 16 + payload.length := by
  simp [sealFrame, hh, ← Nat.add_assoc]

theorem sealFrame_drop : (sealFrame head payload).drop 16 = payload :=
  List.drop_left' (by simp [hh])

theorem sealFrame_take : (sealFrame head payload).take 12 = head := by
  rw [sealFrame, List.append_assoc]
  exact List.take_left' hh

theorem sealFrame_getD {k : Nat} (hk : k < 12) (d : Byte) : (sealFrame head payload).getD k d = head.getD k d := by
  rw [sealFrame, List.append_assoc, List.getD_append _ _ _ _ (hh ▸ hk)]

/-- The header fields are slices of the header. -/
theorem slice_sealFrame {j : Nat} (hj : j ≤ 12) (i : Nat) : slice (sealFrame head payload) i j = slice head i j := by
  rw [sealFrame, List.append_assoc, slice_append_left (hh ▸ hj)]

/-- The checksum field is right. -/
theorem slice_sealFrame_crc :
    slice (sealFrame head payload) 12 16 = encU32 (crc32 (clearCrc (sealFrame head payload))) := by
  rw [clearCrc, sealFrame_take hh, sealFrame_drop hh]
  have hmid := slice_append_mid head (encU32 (crc32 (head ++ zeros 4 ++ payload))) payload
  rwa [hh, encU32_length] at hmid

/-- A sealed frame whose `LEN` field is right parses, and the header fields say the segment (R63, R66). -/
theorem dec_sealFrame (hlen : beNat (slice head 10 12) = payload.length) :
    dec (sealFrame head payload) = some
      { flags := (head.getD 8 0x00#8).setWidth 4
        seq := BitVec.ofNat 32 (beNat (slice head 0 4))
        ack := BitVec.ofNat 32 (beNat (slice head 4 8))
        len := BitVec.ofNat 16 payload.length
        payload := payload } := by
  have hcrc : (crc32 (clearCrc (sealFrame head payload))).toNat = beNat (slice (sealFrame head payload) 12 16) := by
    rw [slice_sealFrame_crc hh, beNat_encU32]
  have hsize : (sealFrame head payload).length - Config.hdrLen = payload.length := by
    rw [sealFrame_length hh]
    exact Nat.add_sub_cancel_left 16 _
  have hheader : ¬ (sealFrame head payload).length < Config.hdrLen := by
    rw [sealFrame_length hh]
    exact Nat.not_lt.mpr (Nat.le_add_right _ _)
  simp only [dec, if_neg hheader, hcrc, hsize, slice_sealFrame hh, sealFrame_getD hh, sealFrame_drop hh, hlen,
    Nat.reduceLeDiff, Nat.reduceLT, ne_eq, not_true_eq_false, if_false]

end

/-! ### The reserved bits (R53) -/

/-- The first twelve bytes of a frame with its reserved bits replaced. -/
def withReserved (f : Bytes) (high flags : BitVec 4) (rsvd : Byte) : Bytes :=
  f.take 8 ++ [high ++ flags, rsvd] ++ slice f 10 12

section
variable {f : Bytes} (hf : 16 ≤ f.length) (high flags : BitVec 4) (rsvd : Byte)
include hf

theorem withReserved_length : (withReserved f high flags rsvd).length = 12 := by
  simp [withReserved, slice_length (show 12 ≤ f.length by omega)]
  omega

theorem withReserved_flags (d : Byte) : ((withReserved f high flags rsvd).getD 8 d).setWidth 4 = flags := by
  have h8 : (f.take 8).length = 8 := by simp; omega
  rw [withReserved, List.append_assoc, List.getD_append_right _ _ _ _ h8.le, h8]
  exact BitVec.setWidth_append_eq_right

/-- `SEQ` and `ACK` stand before the reserved bits. -/
theorem slice_withReserved {j : Nat} (hj : j ≤ 8) (i : Nat) :
    slice (withReserved f high flags rsvd) i j = slice f i j := by
  rw [withReserved, List.append_assoc, slice_append_left (by simp; omega), slice_take hj]

/-- `LEN` stands after the reserved bits. -/
theorem slice_withReserved_len : slice (withReserved f high flags rsvd) 10 12 = slice f 10 12 := by
  have h10 : (f.take 8 ++ [high ++ flags, rsvd]).length = 10 := by simp; omega
  have hlen := slice_append_mid (f.take 8 ++ [high ++ flags, rsvd]) (slice f 10 12) []
  rwa [List.append_nil, h10, slice_length (by omega)] at hlen

end

/-- The formatter keeps none of the reserved bits 7..4 of its operand (R53). -/
theorem flags_and_reserved (b : Byte) : b &&& 0x0F#8 &&& 0xF0#8 = 0x00#8 := by
  rw [BitVec.and_assoc]
  exact BitVec.and_zero

/-- The formatter's bytes 8 and 9 (R53). -/
theorem encHead_getD (flags : Byte) (seq ack : Word) (payload : Bytes) (k : Nat) (d : Byte) :
    (encHead flags seq ack payload).getD (8 + k) d
      = ((flags &&& 0x0F#8) :: 0x00#8 :: beBytes 2 payload.length).getD k d := by
  have h8 : (encU32 seq ++ encU32 ack).length = 8 := by simp
  rw [encHead, List.append_assoc, List.getD_append_right _ _ _ _ (by omega), h8, Nat.add_sub_cancel_left]
  rfl

/-- Settles O10: the formatter writes the reserved bits as zero, and in a sealed frame no field of the segment reads
them. -/
theorem reservedBitsAreIgnored : Obligations.ReservedBitsAreIgnored := by
  refine ⟨fun flags seq ack payload => ?_, fun f g high rsvd h => ?_⟩
  · have hh := encHead_length flags seq ack payload
    rw [enc_eq_sealFrame, sealFrame_getD hh _ (by decide), sealFrame_getD hh _ (by decide),
      encHead_getD _ _ _ _ 0, encHead_getD _ _ _ _ 1]
    exact ⟨flags_and_reserved flags, rfl⟩
  · obtain ⟨hf, -, hlen, rfl⟩ := dec_eq_some h
    have hpayload (flags : BitVec 4) :
        beNat (slice (withReserved f high flags rsvd) 10 12) = (f.drop 16).length := by
      rw [slice_withReserved_len hf, hlen, List.length_drop]
    have hparse := dec_sealFrame (withReserved_length hf high ((f.getD 8 0x00#8).setWidth 4) rsvd) (f.drop 16)
      (hpayload _)
    rw [withReserved_flags hf, slice_withReserved hf _ _ _ (by decide), slice_withReserved hf _ _ _ (by decide),
      List.length_drop, ← hlen] at hparse
    exact hparse

end Sys2Proof.Machine
end

section
/-! The checksum (40_codec.md R60): it is the pseudocode on natural numbers, and it separates two byte strings that
differ in one byte. -/

namespace Sys2Proof.Machine

/-! ### The pseudocode on natural numbers -/

theorem crcBit_toNat (c : Word) : (crcBit c).toNat = crcBitRef c.toNat := by
  have hshift : (c >>> 1).toNat = c.toNat / 2 := by rw [BitVec.toNat_ushiftRight, Nat.shiftRight_one]
  have hbit : c.getLsbD 0 = decide (c.toNat % 2 = 1) := by rw [BitVec.getLsbD, Nat.testBit_zero]
  rw [crcBit, crcBitRef, hbit]
  by_cases hodd : c.toNat % 2 = 1
  · rw [if_pos (decide_eq_true hodd), if_pos hodd, BitVec.toNat_xor, hshift]
    rfl
  · rw [if_neg (by simp [hodd]), if_neg hodd, hshift]

theorem crcByte_toNat (c : Word) (b : Byte) :
    (crcByte c b).toNat = (List.range 8).foldl (fun c _ => crcBitRef c) (c.toNat ^^^ b.toNat) := by
  have hbyte : (b.setWidth 32).toNat = b.toNat := BitVec.toNat_setWidth_of_le (by decide)
  simp only [crcByte, crcBit_toNat, BitVec.toNat_xor, hbyte]
  rfl

/-- The register after any bytes is the register of the pseudocode. -/
theorem crcFrom_toNat (c : Word) (s : Bytes) :
    (crcFrom c s).toNat
      = s.foldl (fun c b => (List.range 8).foldl (fun c _ => crcBitRef c) (c ^^^ b.toNat)) c.toNat := by
  induction s generalizing c with
  | nil => rfl
  | cons b s ih => rw [crcFrom_cons, ih, crcByte_toNat, List.foldl_cons]

theorem crc32_toNat (s : Bytes) : (crc32 s).toNat = crcRef s := by
  rw [crc32, BitVec.toNat_xor, crcFrom_toNat]
  rfl

/-- Settles O5: bit by bit and byte by byte the register holds the number of the pseudocode. -/
theorem crcGenComputesTheChecksum : Obligations.CrcGenComputesTheChecksum := by
  intro data s
  rw [← crc32_toNat, BitVec.ofNat_toNat, BitVec.setWidth_eq]
  exact ⟨(crc32 data).isLt, rfl⟩

/-! ### One byte changed -/

/-- The loop loses no information of the register it starts from. -/
theorem crcFrom_injective (s : Bytes) : Function.Injective (crcFrom · s) := by
  induction s with
  | nil => exact fun _ _ h => h
  | cons b s ih =>
    intro c d h
    simp only [crcFrom_cons] at h
    exact crcByte_injective b (ih h)

/-- One byte step, from a fixed register, loses no information of the byte. -/
theorem crcByte_byte_injective (c : Word) : Function.Injective (crcByte c) := by
  have hentry (b : Byte) : crcByte c b = crcByte (c ^^^ b.setWidth 32) 0x00#8 := by simp [crcByte]
  intro a b h
  rw [hentry a, hentry b] at h
  have hword : a.setWidth 32 = b.setWidth 32 := (BitVec.xor_right_inj c).mp (crcByte_injective _ h)
  simpa using congrArg (BitVec.setWidth 8) hword

theorem crcFrom_set_ne (c : Word) {s : Bytes} {k : Nat} {b : Byte} (hb : s.getD k b ≠ b) :
    crcFrom c (s.set k b) ≠ crcFrom c s := by
  induction s generalizing c k with
  | nil => exact absurd rfl hb
  | cons a s ih =>
    cases k with
    | zero =>
      rw [List.set_cons_zero, crcFrom_cons, crcFrom_cons]
      exact fun h => hb (crcByte_byte_injective c (crcFrom_injective s h)).symm
    | succ k =>
      rw [List.set_cons_succ, crcFrom_cons, crcFrom_cons]
      exact ih _ hb

/-- Two byte strings that differ in exactly one byte have different checksums. -/
theorem crc32_set_ne {s : Bytes} {k : Nat} {b : Byte} (hb : s.getD k b ≠ b) : crc32 (s.set k b) ≠ crc32 s :=
  fun h => crcFrom_set_ne _ hb (xor_right_cancel h)

end Sys2Proof.Machine
end

section
/-! The frame formatter and parser (40_codec.md R62, R63, R65): their pseudocode, and what each says of the other. -/

namespace Sys2Proof.Machine

/-! ### The formatter (R62) -/

/-- The low half of a byte, by mask and by remainder (R53). -/
theorem and_lowHalf_eq_ofNat (b : Byte) : b &&& 0x0F#8 = BitVec.ofNat 8 (b.toNat % 16) := by
  apply BitVec.eq_of_toNat_eq
  have hfits : (BitVec.ofNat 8 (b.toNat % 16)).toNat = b.toNat % 16 := Nat.mod_eq_of_lt (by omega)
  rw [BitVec.toNat_and, hfits]
  exact Nat.and_two_pow_sub_one_eq_mod b.toNat 4

theorem encRef_eq_enc (flags : Byte) (seq ack : Word) (payload : Bytes) :
    encRef flags seq ack payload = enc flags seq ack payload := by
  have hhead : encHead flags seq ack payload = beBytes 4 seq.toNat ++ beBytes 4 ack.toNat
      ++ [BitVec.ofNat 8 (flags.toNat % 16)] ++ [0x00#8] ++ beBytes 2 payload.length := by
    simp [encHead, encU32, and_lowHalf_eq_ofNat]
  have htake : (encHead flags seq ack payload ++ zeros 4 ++ payload).take 12 = encHead flags seq ack payload := by
    rw [List.append_assoc]
    exact List.take_left' (encHead_length flags seq ack payload)
  have hdrop : (encHead flags seq ack payload ++ zeros 4 ++ payload).drop 16 = payload :=
    List.drop_left' (by simp)
  rw [encRef, ← hhead, htake, hdrop, ← crc32_toNat]
  rfl

/-- Settles O6: the formatter is the pseudocode, and its refusal is the test of the payload's length. -/
theorem segEncFormatsTheFrame : Obligations.SegEncFormatsTheFrame := by
  intro flags seq ack payload s
  rw [encRef_eq_enc]
  exact ⟨fun hfits => ⟨enc_length flags seq ack payload, if_neg (Nat.not_lt.mpr hfits)⟩,
    fun hlong => if_pos hlong⟩

/-! ### The parser (R63) -/

theorem frameGood_of_dec {f : Bytes} {g : Segment} (h : dec f = some g) : frameGood f := by
  obtain ⟨hheader, hcrc, hlen, -⟩ := dec_eq_some h
  exact ⟨hheader, by rw [← hcrc, crc32_toNat]; rfl, hlen⟩

theorem dec_of_frameGood {f : Bytes} (h : frameGood f) :
    dec f = some
      { flags := (f.getD 8 0x00#8).setWidth 4
        seq := BitVec.ofNat 32 (beNat (slice f 0 4))
        ack := BitVec.ofNat 32 (beNat (slice f 4 8))
        len := BitVec.ofNat 16 (beNat (slice f 10 12))
        payload := f.drop 16 } := by
  obtain ⟨hheader, hcrc, hlen⟩ := h
  have hsum : (crc32 (clearCrc f)).toNat = beNat (slice f 12 16) := by rw [crc32_toNat, ← hcrc]; rfl
  exact (if_neg (Nat.not_lt.mpr hheader)).trans ((if_neg (not_not.mpr hsum)).trans (if_neg (not_not.mpr hlen)))

theorem dec_of_not_frameGood {f : Bytes} (h : ¬frameGood f) : dec f = none :=
  Option.eq_none_iff_forall_ne_some.mpr fun _ hg => h (frameGood_of_dec hg)

theorem execSegDec_some {f : Bytes} {g : Segment} (h : dec f = some g) (s : State) :
    execSegDec f s = .next (s.answer (.segment (g.flags.setWidth 8) g.seq g.ack g.payload)) := by
  rw [execSegDec, h]

theorem execSegDec_none {f : Bytes} (h : dec f = none) (s : State) : execSegDec f s = s.raise .corruptionDetected := by
  rw [execSegDec, h]

/-- Settles O7: the parser's three tests are those of `frameGood`, on the numbers of the pseudocode. -/
theorem segDecAcceptsExactly : Obligations.SegDecAcceptsExactly := by
  refine fun f s => ⟨fun hgood => ?_, fun hbad => execSegDec_none (dec_of_not_frameGood hbad) s⟩
  have hflags : ((f.getD 8 0x00#8).setWidth 4).setWidth 8 = BitVec.ofNat 8 ((f.getD 8 0x00#8).toNat % 16) := by
    apply BitVec.eq_of_toNat_eq
    rw [BitVec.toNat_setWidth_of_le (by decide), BitVec.toNat_setWidth, BitVec.toNat_ofNat]
    omega
  rw [← hflags]
  exact execSegDec_some (dec_of_frameGood hgood) s

/-! ### The parser on a formatted frame (R65 item 1) -/

section
variable (flags : Byte) (seq ack : Word) (payload : Bytes)

theorem slice_encHead_seq : slice (encHead flags seq ack payload) 0 4 = encU32 seq := by
  have hmid := slice_append_mid [] (encU32 seq) (encU32 ack ++ [flags &&& 0x0F#8, 0x00#8] ++ beBytes 2 payload.length)
  simpa [encHead] using hmid

theorem slice_encHead_ack : slice (encHead flags seq ack payload) 4 8 = encU32 ack := by
  have hmid := slice_append_mid (encU32 seq) (encU32 ack) ([flags &&& 0x0F#8, 0x00#8] ++ beBytes 2 payload.length)
  simpa [encHead] using hmid

theorem slice_encHead_len : slice (encHead flags seq ack payload) 10 12 = beBytes 2 payload.length := by
  have hmid := slice_append_mid (encU32 seq ++ encU32 ack ++ [flags &&& 0x0F#8, 0x00#8]) (beBytes 2 payload.length) []
  simpa [encHead] using hmid

end

theorem ofNat_beNat_encU32 (w : Word) : BitVec.ofNat 32 (beNat (encU32 w)) = w := by
  rw [beNat_encU32, BitVec.ofNat_toNat, BitVec.setWidth_eq]

theorem dec_enc (flags : Byte) (seq ack : Word) {payload : Bytes} (hfits : payload.length ≤ 65535) :
    dec (enc flags seq ack payload) = some
      { flags := flags.setWidth 4, seq := seq, ack := ack, len := BitVec.ofNat 16 payload.length,
        payload := payload } := by
  have hlen : beNat (slice (encHead flags seq ack payload) 10 12) = payload.length := by
    rw [slice_encHead_len, beNat_beBytes]
    exact Nat.mod_eq_of_lt (Nat.lt_succ_of_le hfits)
  have hflags : (flags &&& 0x0F#8).setWidth 4 = flags.setWidth 4 := by
    rw [BitVec.setWidth_and]
    exact BitVec.and_allOnes
  rw [enc_eq_sealFrame, dec_sealFrame (encHead_length flags seq ack payload) payload hlen, slice_encHead_seq,
    slice_encHead_ack, ofNat_beNat_encU32, ofNat_beNat_encU32, encHead_getD flags seq ack payload 0,
    List.getD_cons_zero, hflags]

/-- Settles O8: a formatted frame is sealed, and each header field reads back what was written there. -/
theorem formattedFramesParseBack : Obligations.FormattedFramesParseBack := by
  intro flags seq ack payload s hfits
  have hdec := dec_enc (flags.setWidth 8) seq ack hfits
  rw [BitVec.setWidth_setWidth_of_le flags (by decide), BitVec.setWidth_eq] at hdec
  exact ⟨hdec, execSegDec_some hdec s⟩

/-! ### The formatter on a parsed frame (R65 item 2) -/

/-- Writing the number of four bytes gives the bytes. -/
theorem encU32_ofNat_beNat {s : Bytes} (h : s.length = 4) : encU32 (BitVec.ofNat 32 (beNat s)) = s := by
  have hlt := beNat_lt s
  rw [h] at hlt
  have hback := beBytes_beNat s
  rwa [h, ← Nat.mod_eq_of_lt hlt] at hback

/-- The head of a frame and the part after it. -/
theorem take_append_slice (f : Bytes) {i j : Nat} (h : i ≤ j) : f.take i ++ slice f i j = f.take j := by
  rw [slice, ← min_eq_left h, ← List.take_take, min_eq_left h, List.take_append_drop]

theorem take_append_getD {f : Bytes} {i : Nat} (h : i < f.length) (d : Byte) :
    f.take i ++ [f.getD i d] = f.take (i + 1) := by
  rw [List.getD_eq_getElem _ _ h, List.take_append_getElem h]

/-- The header before the checksum: `SEQ` and `ACK`, the bytes 8 and 9 with the reserved bits, `LEN` (R50). -/
theorem take_eq_fields {f : Bytes} (hf : 12 ≤ f.length) :
    f.take 12 = f.take 8 ++ [f.getD 8 0x00#8, f.getD 9 0x00#8] ++ slice f 10 12 := by
  rw [List.append_cons, take_append_getD (by omega), take_append_getD (by omega), take_append_slice f (by decide)]

/-- A parsed frame is sealed. -/
theorem sealFrame_of_dec {f : Bytes} {g : Segment} (h : dec f = some g) : sealFrame (f.take 12) (f.drop 16) = f := by
  obtain ⟨hf, hcrc, -, -⟩ := dec_eq_some h
  have hfield : encU32 (crc32 (clearCrc f)) = slice f 12 16 := by
    rw [← encU32_ofNat_beNat (slice_length hf 12), ← hcrc, BitVec.ofNat_toNat, BitVec.setWidth_eq]
  rw [sealFrame, ← clearCrc, hfield, take_append_slice f (by decide), List.take_append_drop]

/-- The byte the formatter writes for four flag bits. -/
theorem setWidth_and_lowHalf (flags : BitVec 4) : flags.setWidth 8 &&& 0x0F#8 = 0#4 ++ flags := by
  revert flags; decide

theorem reserved_eq_zero_iff (b : Byte) : b &&& 0xF0#8 = 0x00#8 ↔ 0#4 ++ b.setWidth 4 = b := by
  revert b; decide

/-- The formatter's header of a parsed segment is the frame's own with the reserved bits zero. -/
theorem encHead_of_dec {f : Bytes} {g : Segment} (h : dec f = some g) :
    encHead (g.flags.setWidth 8) g.seq g.ack g.payload = withReserved f 0#4 g.flags 0x00#8 := by
  obtain ⟨hf, -, hlen, rfl⟩ := dec_eq_some h
  have hack : slice f 0 4 ++ slice f 4 8 = f.take 8 := take_append_slice f (by decide)
  have hlenField : beBytes 2 (f.drop 16).length = slice f 10 12 := by
    have hback := beBytes_beNat (slice f 10 12)
    rwa [slice_length (by omega), hlen, ← List.length_drop] at hback
  rw [encHead, encU32_ofNat_beNat (slice_length (j := 4) (by omega) 0),
    encU32_ofNat_beNat (slice_length (j := 8) (by omega) 4), hack, hlenField, setWidth_and_lowHalf, withReserved]

/-- A parsed frame is the formatter's exactly when its first twelve bytes are. -/
theorem enc_eq_iff_of_dec {f : Bytes} {g : Segment} (h : dec f = some g) :
    enc (g.flags.setWidth 8) g.seq g.ack g.payload = f ↔ withReserved f 0#4 g.flags 0x00#8 = f.take 12 := by
  have hf := (dec_eq_some h).1
  have hpayload : g.payload = f.drop 16 := by
    obtain ⟨-, -, -, rfl⟩ := dec_eq_some h
    rfl
  rw [enc_eq_sealFrame, encHead_of_dec h, hpayload]
  refine ⟨fun heq => ?_, fun heq => by rw [heq, sealFrame_of_dec h]⟩
  rw [← sealFrame_take (withReserved_length hf 0#4 g.flags 0x00#8) (f.drop 16), heq]

/-- Settles O9: what the formatter writes of a parsed segment differs from the frame in no byte but those of the
reserved bits. -/
theorem parsedFramesFormatBack : Obligations.ParsedFramesFormatBack := by
  intro f g h
  obtain ⟨hf, -, -, hg⟩ := dec_eq_some h
  have hflags : g.flags = (f.getD 8 0x00#8).setWidth 4 := by rw [hg]
  rw [enc_eq_iff_of_dec h, take_eq_fields (by omega), withReserved, List.append_left_inj, List.append_right_inj,
    List.cons.injEq, List.cons.injEq, and_iff_left rfl, hflags, reserved_eq_zero_iff, eq_comm (a := 0x00#8)]

/-! ### One byte damaged (R65 item 4) -/

theorem slice_getD (f : Bytes) {i j n : Nat} (h : i + n < j) (d : Byte) :
    (slice f i j).getD n d = f.getD (i + n) d := by
  simp [slice, List.getElem?_take_of_lt h]

/-- Two strings of equally many bytes with the same number are the same. -/
theorem beNat_inj {s t : Bytes} (hlen : s.length = t.length) (h : beNat s = beNat t) : s = t := by
  rw [← beBytes_beNat s, h, hlen, beBytes_beNat]

theorem set_ne_self {s : Bytes} {k : Nat} {b : Byte} (hk : k < s.length) (hb : s.getD k b ≠ b) : s.set k b ≠ s := by
  intro h
  rw [← h, List.getD_eq_getElem _ _ (by simpa), List.getElem_set_self] at hb
  exact hb rfl

section
variable {f : Bytes} {k : Nat} (b : Byte)

theorem clearCrc_getD (hf : 16 ≤ f.length) (hk : k < 12 ∨ 16 ≤ k) : (clearCrc f).getD k b = f.getD k b := by
  have hhead : (f.take 12).length = 12 := by rw [List.length_take]; omega
  rw [clearCrc, List.append_assoc]
  rcases hk with hk | hk
  · rw [List.getD_append _ _ _ _ (by omega)]
    simp [List.getElem?_take_of_lt hk]
  · have hplace : 16 + (k - 12 - 4) = k := by omega
    rw [List.getD_append_right _ _ _ _ (by omega), List.getD_append_right _ _ _ _ (by simp; omega)]
    simp [hhead, hplace, -List.length_take]

/-- A byte outside the checksum field is one the checksum is computed over. -/
theorem clearCrc_set_outside (hf : 16 ≤ f.length) (hk : k < 12 ∨ 16 ≤ k) :
    clearCrc (f.set k b) = (clearCrc f).set k b := by
  have hhead : (f.take 12).length = 12 := by rw [List.length_take]; omega
  rw [clearCrc, clearCrc, List.take_set, List.drop_set, List.append_assoc, List.append_assoc]
  rcases hk with hk | hk
  · rw [if_pos (by omega), List.set_append_left _ _ (by omega)]
  · rw [if_neg (by omega), List.set_eq_of_length_le (by omega), List.set_append_right _ _ (by omega),
      List.set_append_right _ _ (by simp; omega), hhead, List.length_replicate, Nat.sub_sub]

/-- The checksum is computed over no byte of its own field. -/
theorem clearCrc_set_inside (hk : 12 ≤ k ∧ k < 16) : clearCrc (f.set k b) = clearCrc f := by
  rw [clearCrc, clearCrc, List.take_set, List.drop_set, if_pos hk.2,
    List.set_eq_of_length_le ((List.length_take_le _ _).trans hk.1)]

theorem slice_crc_set_outside (hk : k < 12 ∨ 16 ≤ k) : slice (f.set k b) 12 16 = slice f 12 16 := by
  rw [slice, slice, List.take_set, List.drop_set]
  rcases hk with hk | hk
  · rw [if_pos hk]
  · rw [if_neg (by omega), List.set_eq_of_length_le (by simp; omega)]

theorem slice_crc_set_inside (hk : 12 ≤ k ∧ k < 16) : slice (f.set k b) 12 16 = (slice f 12 16).set (k - 12) b := by
  rw [slice, slice, List.take_set, List.drop_set, if_neg (Nat.not_lt.mpr hk.1)]

end

/-- In a frame whose checksum matches, no other byte at any one place keeps the match: outside the checksum field the
computed number changes and the stored one does not, inside it the other way round. -/
theorem checksum_set_ne {f : Bytes} (hf : 16 ≤ f.length) (hmatch : (crc32 (clearCrc f)).toNat = beNat (slice f 12 16))
    {k : Nat} {b : Byte} (hb : f.getD k b ≠ b) :
    (crc32 (clearCrc (f.set k b))).toNat ≠ beNat (slice (f.set k b) 12 16) := by
  by_cases hk : k < 12 ∨ 16 ≤ k
  · rw [clearCrc_set_outside b hf hk, slice_crc_set_outside b hk, ← hmatch]
    rw [← clearCrc_getD b hf hk] at hb
    exact fun h => crc32_set_ne hb (BitVec.eq_of_toNat_eq h)
  · have hin : 12 ≤ k ∧ k < 16 := by omega
    rw [clearCrc_set_inside b hin, slice_crc_set_inside b hin, hmatch]
    have hfield : (slice f 12 16).getD (k - 12) b = f.getD k b := by
      rw [slice_getD f (by omega), Nat.add_sub_cancel' hin.1]
    have hplace : k - 12 < (slice f 12 16).length := by rw [slice_length hf]; omega
    exact fun h => set_ne_self hplace (hfield ▸ hb) (beNat_inj (by simp) h.symm)

/-- Settles O11: a formatted frame has the right checksum, and a parse of the damaged one would say that it still has. -/
theorem singleByteDamageIsDetected : Obligations.SingleByteDamageIsDetected := by
  intro flags seq ack payload k b hfits _ hb
  have hf : 16 ≤ (enc flags seq ack payload).length := by simp
  obtain ⟨-, hmatch, -, -⟩ := dec_eq_some (dec_enc flags seq ack hfits)
  refine Option.eq_none_iff_forall_ne_some.mpr fun g h => ?_
  obtain ⟨-, hdamaged, -, -⟩ := dec_eq_some h
  exact checksum_set_ne hf hmatch hb hdamaged

end Sys2Proof.Machine
end

section
/-! SUPPORT. The injector on natural numbers and on frame lengths: the generator step is linear, a trial compares
numbers, and what a send draws and delivers is said by its verdict and the length of the frame. -/

namespace Sys2Proof.Machine

/-! ### The generator step (R70) -/

theorem prngNext_toNat (s : Word) : (prngNext s).toNat = nextRef s.toNat := by
  simp only [prngNext, nextRef, BitVec.toNat_xor, BitVec.toNat_shiftLeft, BitVec.toNat_ushiftRight]

/-- Adding a left-shifted copy is linear. -/
theorem xor_shiftLeft_linear (s t : Word) (k : Nat) :
    (s ^^^ t) ^^^ ((s ^^^ t) <<< k) = (s ^^^ (s <<< k)) ^^^ (t ^^^ (t <<< k)) := by
  rw [BitVec.shiftLeft_xor_distrib]
  ac_rfl

/-- Adding a right-shifted copy is linear. -/
theorem xor_ushiftRight_linear (s t : Word) (k : Nat) :
    (s ^^^ t) ^^^ ((s ^^^ t) >>> k) = (s ^^^ (s >>> k)) ^^^ (t ^^^ (t >>> k)) := by
  rw [BitVec.ushiftRight_xor_distrib]
  ac_rfl

/-- The generator step is linear, as each of its three lines is. -/
theorem prngNext_xor (s t : Word) : prngNext (s ^^^ t) = prngNext s ^^^ prngNext t := by
  rw [prngNext, xor_shiftLeft_linear s t, xor_ushiftRight_linear, xor_shiftLeft_linear]
  rfl

theorem prngNext_injective : Function.Injective prngNext := by
  intro s t h
  by_contra hne
  have hsum : prngNext (s ^^^ t) = 0#32 := by rw [prngNext_xor, BitVec.xor_eq_zero_iff, h]
  exact prngNext_ne_zero (mt BitVec.xor_eq_zero_iff.mp hne) hsum

/-! ### One trial (R72) -/

theorem fires_iff (r : Word) (t : BitVec 17) : fires r t = true ↔ r.toNat / 2 ^ 16 < t.toNat := by
  rw [fires, decide_eq_true_iff, BitVec.toNat_ushiftRight, Nat.shiftRight_eq_div_pow]

theorem threshold_pos_of_fires {r : Word} {t : BitVec 17} (h : fires r t = true) : 0 < t.toNat :=
  Nat.zero_lt_of_lt ((fires_iff r t).mp h)

theorem threshold_lt_of_not_fires {r : Word} {t : BitVec 17} (h : fires r t = false) : t.toNat < 65536 := by
  rw [← Bool.not_eq_true, fires_iff] at h
  have hr := r.isLt
  omega

/-- A threshold of zero never fires. -/
@[simp] theorem fires_zero (r : Word) : fires r 0#17 = false := by simp [fires]

/-! ### Decisions and sends as their pseudocode (R73, R74) -/

/-- A decision is the pseudocode, and of the channel it writes the generator alone. -/
theorem InjChan.decide_eq_decideRef (c : InjChan) :
    c.decide = ((decideRef c).1, { c with prng := (decideRef c).2 }) := by
  simp only [InjChan.decide, decideRef, fires_iff, InjChan.draw_prng]
  split
  · rfl
  · split <;> rfl

theorem flipByte_eq {f : Bytes} {k : Nat} (h : k < f.length) :
    flipByte f k = f.take k ++ [f.getD k 0x00#8 ^^^ 0xFF#8] ++ f.drop (k + 1) := by
  rw [flipByte, List.modify_eq_take_cons_drop h, List.getD_eq_getElem _ _ h, List.append_assoc, List.singleton_append]

/-- A send is the pseudocode, and of the channel it writes the generator alone. -/
theorem InjChan.send_eq_sendRef (c : InjChan) (f : Bytes) :
    c.send f = ((sendRef c f).1, (sendRef c f).2.1, { c with prng := (sendRef c f).2.2 }) := by
  rw [InjChan.send, sendRef, c.decide_eq_decideRef]
  obtain ⟨verdict, r⟩ := decideRef c
  cases verdict with
  | drop => rfl
  | pass => rfl
  | corrupt =>
    by_cases hf : f.length = 0
    · simp [hf]
    · have hpos : 0 < f.length := Nat.pos_of_ne_zero hf
      simp only [if_neg hf, if_pos hpos, InjChan.draw_prng, flipByte_eq (Nat.mod_lt _ hpos)]
      rfl

/-! ### The operations of the injector -/

theorem dirOf_eq_none {dir : Byte} (h : 1 < dir.toNat) : dirOf dir = none := by
  have h0 : dir ≠ 0x00#8 := by rintro rfl; simp at h
  have h1 : dir ≠ 0x01#8 := by rintro rfl; simp at h
  rw [dirOf, if_neg h0, if_neg h1]

theorem exec_leDecide {dir : Byte} {d : Dir} (h : dirOf dir = some d) (s : State) :
    exec (.leDecide dir) s
      = .next ((s.setChan d { s.chan d with prng := (decideRef (s.chan d)).2 }).answer
          (.verdict (decideRef (s.chan d)).1)) := by
  simp only [exec, execLeDecide, h, InjChan.decide_eq_decideRef]

theorem exec_leDecide_refused {dir : Byte} (h : dirOf dir = none) (s : State) :
    exec (.leDecide dir) s = s.raise .refusedOperand := by
  simp only [exec, execLeDecide, h]

theorem exec_leSend {dir : Byte} {d : Dir} (h : dirOf dir = some d) (f : Bytes) (s : State) :
    exec (.leSend dir f) s
      = .next ((s.setChan d { s.chan d with prng := (sendRef (s.chan d) f).2.2 }).answer
          (.sent (sendRef (s.chan d) f).1 (sendRef (s.chan d) f).2.1)) := by
  simp only [exec, execLeSend, h, InjChan.send_eq_sendRef]

theorem exec_leSend_refused {dir : Byte} (h : dirOf dir = none) (f : Bytes) (s : State) :
    exec (.leSend dir f) s = s.raise .refusedOperand := by
  simp only [exec, execLeSend, h]

/-! ### What a send draws and delivers, by the length of the frame (R77) -/

/-- The channel after a send: the decision's draws, and the draw of a position in a corrupted frame that has one. -/
theorem InjChan.send_channel (c : InjChan) (f : Bytes) :
    (c.send f).2.2 = if c.decide.1 = .corrupt ∧ f.length ≠ 0 then c.decide.2.draw else c.decide.2 := by
  rw [InjChan.send]
  obtain ⟨verdict, c'⟩ := c.decide
  cases verdict with
  | drop => rfl
  | pass => rfl
  | corrupt => by_cases hf : f.length = 0 <;> simp [hf]

/-- A send delivers a frame of the same length, or nothing where the verdict is `DROP`. -/
theorem InjChan.send_delivered_lengths (c : InjChan) (f : Bytes) :
    (c.send f).2.1.toList.map List.length = if c.decide.1 = .drop then [] else [f.length] := by
  rw [InjChan.send]
  obtain ⟨verdict, c'⟩ := c.decide
  cases verdict with
  | drop => rfl
  | pass => rfl
  | corrupt => by_cases hf : f.length = 0 <;> simp [hf]

/-- Lists of frames of the same lengths leave the channel in the same state and come out with the same lengths. -/
theorem passAll_congr_lengths {fs gs : List Bytes} (h : fs.map List.length = gs.map List.length) (c : InjChan) :
    (passAll c fs).1 = (passAll c gs).1
      ∧ (passAll c fs).2.map List.length = (passAll c gs).2.map List.length := by
  induction fs generalizing gs c with
  | nil =>
    obtain rfl : gs = [] := List.map_eq_nil_iff.mp h.symm
    exact ⟨rfl, rfl⟩
  | cons f fs ih =>
    obtain ⟨g, gs, rfl, hlen, hrest⟩ := List.map_eq_cons_iff.mp h.symm
    obtain ⟨hchannel, hlengths⟩ := ih hrest.symm (c.send f).2.2
    have hdraws : (c.send f).2.2 = (c.send g).2.2 := by rw [c.send_channel, c.send_channel, hlen]
    rw [passAll_cons, passAll_cons, ← hdraws]
    refine ⟨hchannel, ?_⟩
    rw [List.map_append, List.map_append, hlengths, c.send_delivered_lengths, c.send_delivered_lengths, hlen]

/-- The frames that come out have the lengths of some of those that went in, in order. -/
theorem passAll_lengths_sublist (c : InjChan) (fs : List Bytes) :
    ((passAll c fs).2.map List.length).Sublist (fs.map List.length) := by
  induction fs generalizing c with
  | nil => exact List.Sublist.slnil
  | cons f fs ih =>
    have hhead : ((c.send f).2.1.toList.map List.length).Sublist [f.length] := by
      rw [c.send_delivered_lengths]
      split
      · exact List.nil_sublist _
      · exact List.Sublist.refl _
    rw [passAll_cons, List.map_append, List.map_cons, ← List.singleton_append]
    exact hhead.append (ih _)

/-! ### A channel with both thresholds zero (R75) -/

theorem InjChan.send_of_zero_thresholds {c : InjChan} (hl : c.lossT = 0#17) (hc : c.corrT = 0#17) (f : Bytes) :
    c.send f = (.pass, some f, c.draw.draw) := by
  rcases c.send_cases f with ⟨h, -⟩ | ⟨-, h, -⟩ | ⟨-, h, -⟩ | ⟨-, -, h⟩
  · simp [hl] at h
  · simp [hc] at h
  · simp [hc] at h
  · exact h

end Sys2Proof.Machine
end

section
/-! The statements about the link emulator (41_link_emulator.md). -/

namespace Sys2Proof.Machine

/-- Settles O12: the step is linear with zero alone going to zero, so it is injective, and words are finitely many. -/
theorem generatorStepIsABijection : Obligations.GeneratorStepIsABijection :=
  ⟨prngNext_toNat, Finite.injective_iff_bijective.mp prngNext_injective, by decide, fun _ => prngNext_ne_zero⟩

/-- Settles O14: each direction byte names a channel, and a send on it is the pseudocode. -/
theorem leSendAppliesTheVerdict : Obligations.LeSendAppliesTheVerdict := by
  intro s dir frame
  refine ⟨?_, ?_, fun h => exec_leSend_refused (dirOf_eq_none h) frame s⟩
  · rintro rfl
    exact exec_leSend (d := .fwd) rfl frame s
  · rintro rfl
    exact exec_leSend (d := .rev) rfl frame s

/-- Settles O16: by induction on the frames, each of which passes after two draws. -/
theorem zeroThresholdsPassEveryFrame : Obligations.ZeroThresholdsPassEveryFrame := by
  intro c fs hl hc
  induction fs generalizing c with
  | nil => rfl
  | cons f fs ih =>
    rw [passAll_cons, InjChan.send_of_zero_thresholds hl hc, ih c.draw.draw hl hc, List.length_cons, Nat.mul_succ,
      Function.iterate_add_apply]
    rfl

/-- Settles O17: a send's draws and the length of what it delivers are functions of the frame's length. -/
theorem drawsDependOnLengthsOnly : Obligations.DrawsDependOnLengthsOnly := by
  intro c fs gs h
  obtain ⟨hchannel, hlengths⟩ := passAll_congr_lengths h c
  exact ⟨hchannel, hlengths, passAll_lengths_sublist c fs⟩

/-- Settles O13: each direction byte names a channel, and a decision on it is the pseudocode. -/
theorem leDecideTriesLossFirst : Obligations.LeDecideTriesLossFirst := by
  intro s dir
  refine ⟨?_, ?_, fun h => exec_leDecide_refused (dirOf_eq_none h) s⟩
  · rintro rfl
    exact exec_leDecide (d := .fwd) rfl s
  · rintro rfl
    exact exec_leDecide (d := .rev) rfl s

/-- Settles O15: a trial that fires has a threshold above zero, and one that does not a threshold below 65536. -/
theorem verdictsHavePositiveProbability : Obligations.VerdictsHavePositiveProbability := by
  intro c
  rcases c.decide_cases with ⟨hloss, e⟩ | ⟨hloss, hcorr, e⟩ | ⟨hloss, hcorr, e⟩ <;> rw [e]
  · exact ⟨fun _ => threshold_pos_of_fires hloss, nofun, nofun⟩
  · exact ⟨nofun, fun _ => ⟨threshold_lt_of_not_fires hloss, threshold_pos_of_fires hcorr⟩, nofun⟩
  · exact ⟨nofun, nofun, fun _ => ⟨threshold_lt_of_not_fires hloss, threshold_lt_of_not_fires hcorr⟩⟩

end Sys2Proof.Machine
end

section
/-! SUPPORT. A sender operation as the frames it sends, the registers and the counters it leaves (R75, R93); the cutting
of a range into pieces (R80). -/

namespace Sys2Proof.Machine

/-! ### Counters (R31) -/

theorem SndCounters.get_add (k : SndCounters) (n : Nat) (c d : SndCtr) :
    (k.add n c).get d = k.get d + if d = c then BitVec.ofNat 32 n else 0#32 := by
  by_cases h : d = c
  · subst h
    simp
  · simp [h, SndCounters.get_add_of_ne k n h]

theorem SndCounters.eq_of_get {k l : SndCounters} (h : ∀ c, k.get c = l.get c) : k = l := by
  cases k
  cases l
  simp only [SndCounters.mk.injEq]
  exact ⟨h .segSent, h .segRcvd, h .retxTo, h .retxFast, h .corrupt, h .dupAck, h .discard, h .bytes⟩

@[simp] theorem SndCounters.add_zero (k : SndCounters) (c : SndCtr) : k.add 0 c = k :=
  SndCounters.eq_of_get fun d => by simp [SndCounters.get_add]

theorem SndCounters.add_add (k : SndCounters) (m n : Nat) (c : SndCtr) : (k.add m c).add n c = k.add (m + n) c := by
  refine SndCounters.eq_of_get fun d => ?_
  simp only [SndCounters.get_add]
  split
  · rw [BitVec.ofNat_add, BitVec.add_assoc]
  · simp

theorem SndCounters.add_add_swap (k : SndCounters) (m n : Nat) (c d : SndCtr) :
    (k.add m c).add n d = (k.add n d).add m c :=
  SndCounters.eq_of_get fun e => by simp only [SndCounters.get_add, add_right_comm]

/-! ### The pieces of a range (R80) -/

theorem pieces_of_le {mss p e : Nat} (hmss : 1 ≤ mss) (h : e ≤ p) : pieces mss p e = [] := by
  have none : (e - p + mss - 1) / mss = 0 := Nat.div_eq_of_lt (by omega)
  simp [pieces, none]

/-- A range that is not empty is its first piece and the pieces of the rest. -/
theorem pieces_of_lt {mss p e : Nat} (hmss : 1 ≤ mss) (h : p < e) :
    pieces mss p e = (p, min mss (e - p)) :: pieces mss (p + min mss (e - p)) e := by
  rcases Nat.lt_or_ge (e - p) mss with short | full
  · have one : (e - p + mss - 1) / mss = 1 := Nat.div_eq_of_lt_le (by omega) (by omega)
    rw [pieces_of_le (p := p + min mss (e - p)) hmss (by omega)]
    simp [pieces, one]
  · have count : (e - p + mss - 1) / mss = (e - (p + mss) + mss - 1) / mss + 1 := by
      rw [← Nat.add_div_right _ hmss]
      congr 1
      omega
    rw [Nat.min_eq_left full, pieces, pieces, count, List.range_succ_eq_map, List.map_cons, List.map_map]
    simp [Nat.add_assoc, Nat.add_comm mss, Nat.succ_mul, full]

/-! ### What a sender operation does -/

/-- The state after the sender has handed the frames `fs` to its transmit path and left the registers `x` and the
counters `k`: all that a sender operation writes but the response (R8, R75). -/
def State.afterSending (s : State) (fs : List Bytes) (x : Sender) (k : SndCounters) : State :=
  { s with fwd := (passAll s.fwd fs).1, sndOut := s.sndOut ++ (passAll s.fwd fs).2, snd := x, sndCnt := k }

section
variable (s : State) (fs : List Bytes) (x : Sender) (k : SndCounters)

@[simp] theorem State.afterSending_cfg : (s.afterSending fs x k).cfg = s.cfg := rfl
@[simp] theorem State.afterSending_snd : (s.afterSending fs x k).snd = x := rfl
@[simp] theorem State.afterSending_sndCnt : (s.afterSending fs x k).sndCnt = k := rfl
@[simp] theorem State.afterSending_src : (s.afterSending fs x k).src = s.src := rfl

@[simp] theorem State.afterSending_sourceRange (q n : Nat) :
    (s.afterSending fs x k).sourceRange q n = s.sourceRange q n := rfl

@[simp] theorem State.afterSending_dataFrames (p e : Nat) :
    (s.afterSending fs x k).dataFrames p e = s.dataFrames p e := rfl

theorem State.afterSending_nil : s.afterSending [] x k = { s with snd := x, sndCnt := k } := by
  simp [State.afterSending]

/-- Two parts of an operation are one: the frames leave in order, the later registers and counters stand. -/
@[simp] theorem State.afterSending_afterSending (gs : List Bytes) (y : Sender) (l : SndCounters) :
    (s.afterSending fs x k).afterSending gs y l = s.afterSending (fs ++ gs) y l := by
  simp [State.afterSending, passAll_append]

/-- The answer of an operation lists the frames that came out of the injector (R56, R75). -/
theorem State.answerSnd_afterSending :
    s.answerSnd (.ok (s.afterSending fs x k)) = .next { s.sentBySender fs with snd := x, sndCnt := k } := by
  simp [State.answerSnd, State.afterSending, State.sentBySender, State.answer]

end

/-- An operation that has nothing sent answers with no frames. -/
theorem State.answerSnd_silent {s t : State} (h : t.sndOut = s.sndOut) :
    s.answerSnd (.ok t) = .next (t.answer (.frames [])) := by
  simp [h]

theorem State.setSnd_eq (s : State) (x : Sender) : s.setSnd x = s.afterSending [] x s.sndCnt := by
  rw [s.afterSending_nil]
  rfl

theorem State.countS_eq (s : State) (c : SndCtr) (n : Nat) :
    s.countS c n = s.afterSending [] s.snd (s.sndCnt.add n c) := by
  rw [s.afterSending_nil]
  rfl

theorem State.arm_eq (s : State) :
    s.arm = s.afterSending [] { s.snd with armed := true, tmrCnt := s.cfg.rtoTicks } s.sndCnt := s.setSnd_eq _

theorem State.disarm_eq (s : State) :
    s.disarm = s.afterSending [] { s.snd with armed := false, tmrCnt := 0#32 } s.sndCnt := s.setSnd_eq _

/-- Handing one frame to the transmit path (R75). -/
theorem State.emitS_eq (s : State) (f : Bytes) : s.emitS f = s.afterSending [f] s.snd s.sndCnt := by
  simp [State.emitS, State.afterSending]

theorem State.sendControl_eq (s : State) (flags : Byte) (q : Word) :
    s.sendControl flags q = s.afterSending [enc flags q 0#32 []] s.snd (s.sndCnt.add 1 .segSent) := by
  simp [State.sendControl, State.countS_eq, State.emitS_eq]

/-- A DATA segment carries the bytes of its range, where the sender may read them (R42, R80). -/
theorem State.sendData_eq {s : State} (src : s.src.wf = true) {seq n : Nat} (may : s.cfg.mayRead seq n = true) :
    s.sendData seq n
      = .ok (s.afterSending [enc 0x01#8 (BitVec.ofNat 32 seq) 0#32 (s.sourceRange seq n)] s.snd
          ((s.sndCnt.add 1 .segSent).add n .bytes)) := by
  refine State.sendData_eq_ok.mpr ⟨may, ?_⟩
  simp [State.countS_eq, State.emitS_eq, Memory.sourceBytes_eq src, State.sourceRange, flagData]

end Sys2Proof.Machine
end

section
/-! SUPPORT. `S.RX` up to the state rules (R84, R94) and `S.TICK` up to the expiry (R91), each as an equation a case. -/

namespace Sys2Proof.Machine

/-! ### The kinds of a segment (R94) -/

theorem classifyS_eq_ack_iff (flags : BitVec 4) : classifyS flags = some .ack ↔ flags = 0x2#4 := by
  revert flags
  decide

theorem classifyS_eq_synAck_iff (flags : BitVec 4) : classifyS flags = some .synAck ↔ flags = 0x6#4 := by
  revert flags
  decide

theorem classifyS_eq_none_iff (flags : BitVec 4) : classifyS flags = none ↔ flags ∉ [0x2#4, 0x6#4, 0xA#4] := by
  revert flags
  decide

/-! ### `S.RX` (R84) -/

/-- A segment that the front end lets through meets the state rules. -/
theorem State.rxSndFrame_of_dec {s : State} {f : Bytes} {g : Segment} {k : SndKind} (hdec : dec f = some g)
    (hlen : g.len.toNat ≤ s.cfg.mss.toNat) (hk : classifyS g.flags = some k) :
    s.rxSndFrame f = s.rxSndState k g := by
  simp [State.rxSndFrame, hdec, hk, Nat.not_lt.mpr hlen]

theorem State.rxSndFrame_corrupt {s : State} {f : Bytes} (hdec : dec f = none) :
    s.rxSndFrame f = .ok (s.countS .corrupt) := by
  simp [State.rxSndFrame, hdec]

/-- A flag set without a kind, a segment longer than `CFG_MSS` and a segment that the state rules discard are counted. -/
theorem State.rxSndFrame_discard {s : State} {f : Bytes} {g : Segment} (hdec : dec f = some g)
    (hrule : ∀ k, classifyS g.flags = some k → g.len.toNat ≤ s.cfg.mss.toNat →
      s.rxSndState k g = .ok (s.countS .discard)) :
    s.rxSndFrame f = .ok (s.countS .discard) := by
  cases hk : classifyS g.flags with
  | none => simp [State.rxSndFrame, hdec, hk]
  | some k =>
    rcases Nat.lt_or_ge s.cfg.mss.toNat g.len.toNat with long | short
    · simp [State.rxSndFrame, hdec, hk, long]
    · rw [State.rxSndFrame_of_dec hdec short hk]
      exact hrule k hk short

/-- An active sender counts the frame, then acts on it. -/
theorem exec_sRx_active {s : State} (f : Bytes) (hst : s.snd.st ≠ .closed) :
    exec (.sRx f) s = s.answerSnd ((s.countS .segRcvd).rxSndFrame f) := execSRx_active f hst

/-- A discarded segment is counted as received and as discarded, without any other effect. -/
theorem exec_sRx_discard {s : State} {f : Bytes} {g : Segment} (hst : s.snd.st ≠ .closed) (hdec : dec f = some g)
    (hrule : ∀ k, classifyS g.flags = some k → g.len.toNat ≤ s.cfg.mss.toNat →
      (s.countS .segRcvd).rxSndState k g = .ok ((s.countS .segRcvd).countS .discard)) :
    exec (.sRx f) s
      = .next { s with
          sndCnt := { s.sndCnt with segRcvd := s.sndCnt.segRcvd + 1#32, discard := s.sndCnt.discard + 1#32 }
          response := some ⟨.ok, .frames []⟩ } := by
  rw [exec_sRx_active f hst, State.rxSndFrame_discard hdec hrule, State.answerSnd_silent] <;> rfl

/-- A segment that passes the front end: counted as received, then the state rules. -/
theorem exec_sRx_segment {s : State} {f : Bytes} {g : Segment} {k : SndKind} (hst : s.snd.st ≠ .closed)
    (hdec : dec f = some g) (hlen : g.len.toNat ≤ s.cfg.mss.toNat) (hk : classifyS g.flags = some k) :
    exec (.sRx f) s = s.answerSnd ((s.countS .segRcvd).rxSndState k g) := by
  rw [exec_sRx_active f hst, State.rxSndFrame_of_dec (s := s.countS .segRcvd) hdec hlen hk]

/-! ### The state rules (R90, R96) -/

theorem State.rxSndClosing_accept {s : State} {g : Segment} (hack : g.ack = s.snd.base) :
    s.rxSndClosing .finAck g = (s.setSnd { s.snd with st := .closed, done := true }).disarm := if_pos ⟨rfl, hack⟩

theorem State.rxSndClosing_discard {s : State} {k : SndKind} {g : Segment} (h : ¬(k = .finAck ∧ g.ack = s.snd.base)) :
    s.rxSndClosing k g = s.countS .discard := if_neg h

theorem State.rxSndState_closing {s : State} (hst : s.snd.st = .closing) (k : SndKind) (g : Segment) :
    s.rxSndState k g = .ok (s.rxSndClosing k g) := by
  rw [State.rxSndState, hst]

theorem State.rxSndState_established {s : State} (hst : s.snd.st = .established) (k : SndKind) (g : Segment) :
    s.rxSndState k g = s.rxEstablished k g := by
  rw [State.rxSndState, hst]

theorem State.rxSndState_synSent {s : State} (hst : s.snd.st = .synSent) (k : SndKind) (g : Segment) :
    s.rxSndState k g = s.rxSynSent k g := by
  rw [State.rxSndState, hst]

/-- R96: outside the outstanding range and for the other kinds. -/
theorem State.rxEstablished_discard {s : State} {k : SndKind} {g : Segment}
    (progress : ¬(k = .ack ∧ s.snd.base.toNat < g.ack.toNat ∧ g.ack.toNat ≤ s.snd.next.toNat))
    (duplicate : ¬(k = .ack ∧ g.ack = s.snd.base ∧ s.snd.base.toNat < s.snd.next.toNat)) :
    s.rxEstablished k g = .ok (s.countS .discard) := by
  rw [State.rxEstablished, if_neg progress, if_neg duplicate]

/-! ### `S.TICK` (R91) -/

theorem exec_sTick_armed {s : State} (ha : s.snd.armed = true) : exec .sTick s = s.answerSnd s.tick :=
  execSTick_armed ha

theorem State.tick_above_one {s : State} (h : 1 < s.snd.tmrCnt.toNat) : s.tick = .ok s.countDown := by
  have nonzero : s.snd.tmrCnt ≠ 0#32 := by bv_omega
  have more : s.snd.tmrCnt - 1#32 ≠ 0#32 := by bv_omega
  rw [State.tick, if_neg nonzero, if_pos more]

theorem State.tick_at_one {s : State} (h : s.snd.tmrCnt = 1#32) : s.tick = s.countDown.expire := by
  simp [State.tick, h]

theorem State.expire_of_spent {s : State} (h : s.snd.retry = s.cfg.maxRetry) : s.expire = .ok s.failRun := by
  rw [State.expire, if_pos h]

end Sys2Proof.Machine
end

section
/-! The rules of the sender that send no range of the source (42_sender.md R83, R84, R90 to R92, R94, R96). -/

namespace Sys2Proof.Machine

/-- The test of R83 on the configuration, as the model writes it. -/
theorem CfgRegs.not_runnable_iff (k : CfgRegs) :
    ¬k.runnable ↔ k.mss = 0#16 ∨ k.maxWin = 0#32 ∨ k.rtoTicks = 0#32
      ∨ k.isn.toNat + k.totalLen.toNat > Config.maxSeq := by
  have max : Config.maxSeq = 2 ^ 32 - 1 := rfl
  rw [CfgRegs.runnable, max]
  simp only [ne_eq, not_and_or, not_not, Nat.not_le, gt_iff_lt]

theorem execSOpen_refused {s : State} (h : s.snd.st ≠ .closed ∨ s.snd.done = true ∨ s.snd.fail = true) :
    execSOpen s = s.raise .refusedState := if_pos h

section
variable {s : State} (hst : s.snd.st = .closed) (hdone : s.snd.done = false) (hfail : s.snd.fail = false)
include hst hdone hfail

theorem execSOpen_refusedConfig (h : ¬s.cfg.runnable) : execSOpen s = s.raise .refusedConfig := by
  rw [execSOpen, if_neg (by simp [hst, hdone, hfail]), if_pos (s.cfg.not_runnable_iff.mp h)]

theorem execSOpen_accepted (h : s.cfg.runnable) :
    execSOpen s = s.answerSnd (.ok ((s.sendControl flagSyn s.cfg.isn).setSnd (s.snd.opened s.cfg)).arm) := by
  rw [execSOpen, if_neg (by simp [hst, hdone, hfail]), if_neg fun hk => s.cfg.not_runnable_iff.mpr hk h]

end

/-- Settles O25: the tests in their order; the SYN passes the injector, and the registers are written at once. -/
theorem openStartsARun : Obligations.OpenStartsARun := by
  intro s
  refine ⟨execSOpen_refused, fun hst hdone hfail => ⟨fun hcfg => ?_, fun hcfg => ?_⟩⟩
  · rw [exec, execSOpen_refusedConfig hst hdone hfail hcfg]
    rfl
  · have latched : BitVec.ofNat 32 (s.cfg.isn.toNat + s.cfg.totalLen.toNat) = s.cfg.isn + s.cfg.totalLen := by
      simp [BitVec.ofNat_add]
    rw [exec, execSOpen_accepted hst hdone hfail hcfg, State.sendControl_eq, State.setSnd_eq, State.arm_eq,
      State.afterSending_afterSending, State.afterSending_afterSending, State.answerSnd_afterSending]
    simp [Sender.opened, hdone, hfail, latched, SndCounters.add, flagSyn]

/-- Settles O26: a closed sender does nothing, and each of the other cases counts and stops. -/
theorem senderFrontEndDrops : Obligations.SenderFrontEndDrops := by
  intro f s
  refine ⟨fun hst => ?_, fun hst hdec => ?_, fun g hst hdec hdrop => ?_⟩
  · rw [exec, execSRx_closed f hst, State.answerSnd_silent] <;> rfl
  · rw [exec_sRx_active f hst, State.rxSndFrame_corrupt hdec, State.answerSnd_silent] <;> rfl
  · refine exec_sRx_discard hst hdec fun k hk hlen => ?_
    rcases hdrop with long | hflags
    · omega
    · rw [(classifyS_eq_none_iff _).mpr hflags] at hk
      cases hk

/-- Settles O30: no such segment makes progress or is a duplicate. -/
theorem straySegmentsAreDiscarded : Obligations.StraySegmentsAreDiscarded := by
  intro f g s hst hdec _ hstray
  refine exec_sRx_discard (by simp [hst]) hdec fun k hk _ => ?_
  have outside : k = .ack → g.ack.toNat < s.snd.base.toNat ∨ s.snd.next.toNat < g.ack.toNat := by
    rintro rfl
    have hack := (classifyS_eq_ack_iff _).mp hk
    simpa [hack] using hstray
  rw [State.rxSndState_established (s := s.countS .segRcvd) hst, State.rxEstablished_discard]
  · rintro ⟨hack, low, high⟩
    have := outside hack
    simp only [State.countS_snd] at low high
    omega
  · rintro ⟨hack, hbase, outstanding⟩
    have := outside hack
    simp only [State.countS_snd] at hbase outstanding
    rw [hbase] at this
    omega

/-- Settles O31: the one segment that R90 accepts, and any other. -/
theorem finAckEndsTheRun : Obligations.FinAckEndsTheRun := by
  intro f g s hst hdec hlen
  have hopen : s.snd.st ≠ .closed := by simp [hst]
  refine ⟨fun hflags hack => ?_, fun hother => ?_⟩
  · rw [exec_sRx_segment hopen hdec hlen ((classifyS_eq_finAck_iff _).mpr hflags),
      State.rxSndState_closing (s := s.countS .segRcvd) hst, State.rxSndClosing_accept (s := s.countS .segRcvd) hack,
      State.answerSnd_silent] <;> rfl
  · refine exec_sRx_discard hopen hdec fun k hk _ => ?_
    rw [State.rxSndState_closing (s := s.countS .segRcvd) hst, State.rxSndClosing_discard]
    rintro ⟨rfl, hack⟩
    exact hother ⟨(classifyS_eq_finAck_iff _).mp hk, hack⟩

/-- Settles O32: only an armed timer counts, and above 1 a tick only decrements it. -/
theorem tickCountsDown : Obligations.TickCountsDown := by
  intro s
  refine ⟨fun hd => ?_, fun ha hcount => ?_⟩
  · rw [exec, execSTick_disarmed hd, State.answerSnd_silent] <;> rfl
  · rw [exec_sTick_armed ha, State.tick_above_one hcount, State.answerSnd_silent] <;> rfl

/-- Settles O34: the expiry with the budget spent is `fail()`, which sends nothing. -/
theorem exhaustionFailsTheRun : Obligations.ExhaustionFailsTheRun := by
  intro s ha hone hspent
  rw [exec_sTick_armed ha, State.tick_at_one hone, State.expire_of_spent (s := s.countDown) hspent,
    State.answerSnd_silent] <;> rfl

end Sys2Proof.Machine
end

section
/-! SUPPORT. The sender's loops over the source, and what surrounds them, each as one equation: the frames sent, the
registers and the counters left (R85 to R89, R91). -/

namespace Sys2Proof.Machine

/-! ### A range sent in pieces (R80) -/

theorem State.afterSending_self (s : State) : s.afterSending [] s.snd s.sndCnt = s := s.afterSending_nil _ _

theorem State.dataFrames_of_le {s : State} (hmss : 1 ≤ s.cfg.mss.toNat) {p e : Nat} (h : e ≤ p) :
    s.dataFrames p e = [] := by
  rw [State.dataFrames, pieces_of_le hmss h, List.map_nil]

theorem State.dataFrames_of_lt {s : State} (hmss : 1 ≤ s.cfg.mss.toNat) {p e : Nat} (h : p < e) :
    s.dataFrames p e
      = enc 0x01#8 (BitVec.ofNat 32 p) 0#32 (s.sourceRange p (min s.cfg.mss.toNat (e - p)))
        :: s.dataFrames (p + min s.cfg.mss.toNat (e - p)) e := by
  rw [State.dataFrames, pieces_of_lt hmss h, List.map_cons, State.dataFrames]

/-- The counters after the range `p .. e - 1` has been sent in pieces of `mss` bytes (R80, R85). -/
def SndCounters.addRange (k : SndCounters) (mss p e : Nat) : SndCounters :=
  (k.add (pieces mss p e).length .segSent).add (e - p) .bytes

theorem SndCounters.addRange_of_le {k : SndCounters} {mss p e : Nat} (hmss : 1 ≤ mss) (h : e ≤ p) :
    k.addRange mss p e = k := by
  simp [SndCounters.addRange, pieces_of_le hmss h, Nat.sub_eq_zero_of_le h]

/-- Counting the first piece and then the rest counts the range. -/
theorem SndCounters.addRange_of_lt {k : SndCounters} {mss p e : Nat} (hmss : 1 ≤ mss) (h : p < e) :
    ((k.add 1 .segSent).add (min mss (e - p)) .bytes).addRange mss (p + min mss (e - p)) e = k.addRange mss p e := by
  have bytes : min mss (e - p) + (e - (p + min mss (e - p))) = e - p := by omega
  rw [SndCounters.addRange, SndCounters.addRange, pieces_of_lt hmss h, List.length_cons, Nat.add_comm _ 1,
    SndCounters.add_add_swap _ _ _ .bytes .segSent, SndCounters.add_add, SndCounters.add_add, bytes]

theorem SndCounters.addRange_add (k : SndCounters) (mss p e n : Nat) (c : SndCtr) :
    (k.add n c).addRange mss p e = (k.addRange mss p e).add n c := by
  rw [SndCounters.addRange, SndCounters.addRange, SndCounters.add_add_swap _ n, SndCounters.add_add_swap _ n]

/-- What the sender reads of the source while a run is active (R42, R83). -/
theorem Sender.Running.mayRead {k : CfgRegs} {x : Sender} (run : x.Running k) {seq n : Nat} (pos : 1 ≤ n)
    (mss : n ≤ k.mss.toNat) (low : k.isn.toNat ≤ seq) (high : seq + n ≤ x.endSeq.toNat) :
    k.mayRead seq n = true := by
  have latched := run.latched
  exact (CfgRegs.mayRead_iff _ _ _).mpr ⟨pos, mss, low, by omega⟩

/-- The latched end tells an empty source (R29, R83). -/
theorem State.Coherent.totalLen_eq_zero_iff {s : State} (c : s.Coherent) (hst : s.snd.st ≠ .closed) :
    s.cfg.totalLen = 0#32 ↔ s.cfg.isn = s.snd.endSeq := by
  have latched := c.latched hst
  rw [← BitVec.toNat_inj, ← BitVec.toNat_inj, latched]
  simp

/-! ### Resending (R89, R91) -/

/-- One piece of the outstanding range, as R89 and R91 resend it. -/
theorem State.resendPiece_eq {s : State} (run : s.snd.Running s.cfg) (src : s.src.wf = true) {p : Nat}
    (low : s.snd.base.toNat ≤ p) (high : p < s.snd.next.toNat) :
    s.sendData p (min s.cfg.mss.toNat (s.snd.next.toNat - p))
      = .ok (s.afterSending
          [enc 0x01#8 (BitVec.ofNat 32 p) 0#32 (s.sourceRange p (min s.cfg.mss.toNat (s.snd.next.toNat - p)))]
          s.snd ((s.sndCnt.add 1 .segSent).add (min s.cfg.mss.toNat (s.snd.next.toNat - p)) .bytes)) := by
  have mss := run.mss_pos
  have isnBase := run.isnBase
  have nextEnd := run.nextEnd
  exact State.sendData_eq src (run.mayRead (by omega) (by omega) (by omega) (by omega))

/-- Nothing is left to resend from `SND_NEXT` on. -/
theorem State.resent_nothing {s : State} (hmss : 1 ≤ s.cfg.mss.toNat) {p : Nat} (h : s.snd.next.toNat ≤ p) :
    s.afterSending (s.dataFrames p s.snd.next.toNat) s.snd
        ((s.sndCnt.addRange s.cfg.mss.toNat p s.snd.next.toNat).add
          (pieces s.cfg.mss.toNat p s.snd.next.toNat).length .retxTo) = s := by
  rw [State.dataFrames_of_le hmss h, SndCounters.addRange_of_le hmss h, pieces_of_le hmss h, List.length_nil,
    SndCounters.add_zero, State.afterSending_self]

/-- The Go-Back-N loop of R91 sends the outstanding range from `p` on, cut from `p`. -/
theorem State.resendLoop_eq {s : State} (run : s.snd.Running s.cfg) (src : s.src.wf = true) {k p : Nat}
    (low : s.snd.base.toNat ≤ p) (fuel : s.snd.next.toNat - p ≤ k) :
    State.resendLoop k p s
      = .ok (s.afterSending (s.dataFrames p s.snd.next.toNat) s.snd
          ((s.sndCnt.addRange s.cfg.mss.toNat p s.snd.next.toNat).add
            (pieces s.cfg.mss.toNat p s.snd.next.toNat).length .retxTo)) := by
  induction k generalizing p s with
  | zero => rw [State.resendLoop, State.resent_nothing run.mss_pos (Nat.le_of_sub_eq_zero (Nat.le_zero.mp fuel))]
  | succ k ih =>
    have mss := run.mss_pos
    rw [State.resendLoop]
    by_cases hp : p < s.snd.next.toNat
    · rw [if_pos hp, State.resendPiece_eq run src low hp]
      simp only [State.countS_eq, State.afterSending_afterSending, State.afterSending_snd, State.afterSending_sndCnt]
      rw [ih]
      · simp only [State.afterSending_afterSending, State.afterSending_snd, State.afterSending_sndCnt,
          State.afterSending_cfg, State.afterSending_dataFrames, List.append_nil, List.singleton_append]
        rw [← State.dataFrames_of_lt mss hp, SndCounters.addRange_add, SndCounters.addRange_of_lt mss hp,
          SndCounters.add_add, pieces_of_lt mss hp, List.length_cons, Nat.add_comm 1]
      · exact run
      · exact src
      · exact low.trans (Nat.le_add_right _ _)
      · rw [State.afterSending_snd]
        omega
    · rw [if_neg hp, State.resent_nothing mss (Nat.not_lt.mp hp)]

/-! ### Filling the window (R85) -/

theorem State.Filling.next_le_windowEnd {s : State} (h : s.Filling) :
    s.snd.next.toNat ≤ s.windowEnd s.snd.base := by
  have baseNext := h.run.baseNext
  have nextEnd := h.run.nextEnd
  have window := h.run.window
  rw [State.windowEnd]
  omega

/-- The loop of R85 goes on up to the end of the window. -/
theorem State.Filling.mayFill_iff {s : State} (h : s.Filling) :
    s.mayFill = true ↔ s.snd.next.toNat < s.windowEnd s.snd.base := by
  have baseNext := h.run.baseNext
  simp only [State.mayFill, State.windowEnd, decide_eq_true_eq]
  omega

theorem State.fillSize_eq (s : State) :
    s.fillSize = min s.cfg.mss.toNat (s.windowEnd s.snd.base - s.snd.next.toNat) := by
  simp only [State.fillSize, State.windowEnd]
  omega

/-- The timer, where it runs, has been started by the operation itself (R85, R88). -/
def Sender.TimerFresh (k : CfgRegs) (x : Sender) : Prop := x.armed = true → x.tmrCnt = k.rtoTicks

theorem State.advanceNext_eq (s : State) (n : Nat) (e : Bool) :
    s.advanceNext n e
      = s.afterSending []
          { s.snd with
            next := BitVec.ofNat 32 (s.snd.next.toNat + n)
            armed := e || s.snd.armed
            tmrCnt := if e then s.cfg.rtoTicks else s.snd.tmrCnt }
          s.sndCnt := by
  cases e <;> simp [State.advanceNext, State.setSnd_eq, State.arm_eq]

/-- The timer runs while bytes are outstanding (R39 item 5). -/
theorem State.Filling.armed_of_ne {s : State} (h : s.Filling) (hne : s.snd.next ≠ s.snd.base) :
    s.snd.armed = true :=
  h.timer.armed_iff.mpr (lt_of_le_of_ne h.run.baseNext fun e => hne (BitVec.eq_of_toNat_eq e.symm))

/-- One iteration of the loop of R85: one piece, and the timer runs. -/
theorem State.Filling.fillOne_eq {s : State} (h : s.Filling) (src : s.src.wf = true)
    (timer : s.snd.TimerFresh s.cfg) (hm : s.mayFill = true) :
    s.fillOne
      = .ok (s.afterSending
          [enc 0x01#8 s.snd.next 0#32 (s.sourceRange s.snd.next.toNat s.fillSize)]
          { s.snd with
            next := BitVec.ofNat 32 (s.snd.next.toNat + s.fillSize), armed := true, tmrCnt := s.cfg.rtoTicks }
          ((s.sndCnt.add 1 .segSent).add s.fillSize .bytes)) := by
  obtain ⟨pos, mss, high, -⟩ := h.fillSize_spec hm
  have may := h.run.mayRead pos mss (h.run.isnBase.trans h.run.baseNext) high
  have number : BitVec.ofNat 32 s.snd.next.toNat = s.snd.next := BitVec.ofNat_toNat _ _
  simp only [State.fillOne, State.sendData_eq src may, number, State.advanceNext_eq, State.afterSending_afterSending,
    State.afterSending_snd, State.afterSending_sndCnt, State.afterSending_cfg, List.append_nil]
  by_cases hempty : s.snd.next = s.snd.base
  · simp [hempty]
  · have armed := h.armed_of_ne hempty
    simp [hempty, armed, timer armed]

/-- With the window filled and the timer just started the loop of R85 has nothing to do. -/
theorem State.filled_nothing {s : State} (hmss : 1 ≤ s.cfg.mss.toNat) (armed : s.snd.armed = true)
    (timer : s.snd.TimerFresh s.cfg) :
    s.afterSending (s.dataFrames s.snd.next.toNat s.snd.next.toNat)
        { s.snd with next := BitVec.ofNat 32 s.snd.next.toNat, armed := true, tmrCnt := s.cfg.rtoTicks }
        (s.sndCnt.addRange s.cfg.mss.toNat s.snd.next.toNat s.snd.next.toNat) = s := by
  have snd : ({ s.snd with next := BitVec.ofNat 32 s.snd.next.toNat, armed := true, tmrCnt := s.cfg.rtoTicks } : Sender)
      = s.snd := by simp [← timer armed, ← armed]
  rw [State.dataFrames_of_le hmss le_rfl, SndCounters.addRange_of_le hmss le_rfl, snd, State.afterSending_self]

/-- The loop of R85 sends the unsent bytes up to the end `e` of the window, cut from `SND_NEXT`; with bytes outstanding
the timer runs. -/
theorem State.Filling.fillLoop_eq {s : State} (h : s.Filling) (src : s.src.wf = true) (timer : s.snd.TimerFresh s.cfg)
    {e : Nat} (window : s.windowEnd s.snd.base = e) (outstanding : s.snd.base.toNat < e) {k : Nat}
    (fuel : e - s.snd.next.toNat ≤ k) :
    State.fillLoop k s
      = .ok (s.afterSending (s.dataFrames s.snd.next.toNat e)
          { s.snd with next := BitVec.ofNat 32 e, armed := true, tmrCnt := s.cfg.rtoTicks }
          (s.sndCnt.addRange s.cfg.mss.toNat s.snd.next.toNat e)) := by
  induction k generalizing s with
  | zero =>
    have full : e = s.snd.next.toNat := by
      have := h.next_le_windowEnd
      omega
    subst full
    rw [State.fillLoop, State.filled_nothing h.run.mss_pos (h.timer.armed_iff.mpr outstanding) timer]
  | succ k ih =>
    have mss := h.run.mss_pos
    have goesOn := h.mayFill_iff
    rw [window] at goesOn
    rw [State.fillLoop]
    by_cases hm : s.mayFill = true
    · have size := s.fillSize_eq
      obtain ⟨pos, -, high, -⟩ := h.fillSize_spec hm
      have next : (BitVec.ofNat 32 (s.snd.next.toNat + s.fillSize)).toNat = s.snd.next.toNat + s.fillSize := by
        rw [BitVec.toNat_ofNat]
        exact Nat.mod_eq_of_lt (high.trans_lt s.snd.endSeq.isLt)
      obtain ⟨t, ht, filling, -, -⟩ := h.fillOne hm
      rw [if_pos hm, ht]
      rw [h.fillOne_eq src timer hm] at ht
      cases ht
      dsimp only
      rw [ih filling src (fun _ => rfl) window outstanding (by simp only [State.afterSending_snd, next]; omega)]
      simp only [State.afterSending_afterSending, State.afterSending_snd, State.afterSending_sndCnt,
        State.afterSending_cfg, State.afterSending_dataFrames, List.singleton_append, next]
      rw [size, window, State.dataFrames_of_lt mss (goesOn.mp hm), SndCounters.addRange_of_lt mss (goesOn.mp hm),
        BitVec.ofNat_toNat, BitVec.setWidth_eq]
    · have full : e = s.snd.next.toNat := by
        have := mt goesOn.mpr hm
        have := h.next_le_windowEnd
        omega
      subst full
      rw [if_neg hm, State.filled_nothing mss (h.timer.armed_iff.mpr outstanding) timer]

/-- Where bytes are left to be sent or acknowledged, the window is filled and the run goes on (R85, R86). -/
theorem State.Filling.fillAndFinish_eq {s : State} (h : s.Filling) (src : s.src.wf = true)
    (timer : s.snd.TimerFresh s.cfg) (hleft : s.snd.base ≠ s.snd.endSeq) :
    s.fillAndFinish
      = .ok (s.afterSending (s.dataFrames s.snd.next.toNat (s.windowEnd s.snd.base))
          { s.snd with
            next := BitVec.ofNat 32 (s.windowEnd s.snd.base), armed := true, tmrCnt := s.cfg.rtoTicks }
          (s.sndCnt.addRange s.cfg.mss.toNat s.snd.next.toNat (s.windowEnd s.snd.base))) := by
  have below : s.snd.base.toNat < s.snd.endSeq.toNat :=
    lt_of_le_of_ne (h.run.baseNext.trans h.run.nextEnd) fun e => hleft (BitVec.eq_of_toNat_eq e)
  have maxWin : 0 < s.cfg.maxWin.toNat := Nat.pos_of_ne_zero fun e => h.run.maxWin (BitVec.eq_of_toNat_eq e)
  have outstanding : s.snd.base.toNat < s.windowEnd s.snd.base := lt_min below (Nat.lt_add_of_pos_right maxWin)
  have fuel : s.windowEnd s.snd.base - s.snd.next.toNat ≤ s.snd.endSeq.toNat - s.snd.next.toNat :=
    Nat.sub_le_sub_right (Nat.min_le_left _ _) _
  rw [State.fillAndFinish, State.fill, h.fillLoop_eq src timer rfl outstanding fuel]
  simp [State.finishCheck, hleft]

theorem State.beginClosing_eq (s : State) :
    s.beginClosing
      = s.afterSending [enc 0x08#8 s.snd.base 0#32 []]
          { s.snd with st := .closing, retry := 0#16, dupCnt := 0#2, armed := true, tmrCnt := s.cfg.rtoTicks }
          (s.sndCnt.add 1 .segSent) := by
  simp [State.beginClosing, State.sendControl_eq, State.setSnd_eq, State.arm_eq, flagFin]

/-- Where everything is acknowledged, nothing is left to send and the FIN leaves (R86). -/
theorem State.fillAndFinish_closing {s : State} (hst : s.snd.st = .established) (hbase : s.snd.base = s.snd.endSeq)
    (hnext : s.snd.next = s.snd.endSeq) :
    s.fillAndFinish
      = .ok (s.afterSending [enc 0x08#8 s.snd.base 0#32 []]
          { s.snd with st := .closing, retry := 0#16, dupCnt := 0#2, armed := true, tmrCnt := s.cfg.rtoTicks }
          (s.sndCnt.add 1 .segSent)) := by
  have nothing : s.fill = .ok s := by rw [State.fill, hnext, Nat.sub_self, State.fillLoop]
  rw [State.fillAndFinish, nothing, ← State.beginClosing_eq]
  exact congrArg _ (if_pos ⟨hst, hbase⟩)

/-! ### The state rules that send (R87, R88, R89) -/

theorem State.establish_eq (s : State) :
    s.establish
      = s.afterSending []
          { s.snd with
            st := .established, base := s.cfg.isn, next := s.cfg.isn, dupCnt := 0#2, retry := 0#16, armed := false
            tmrCnt := 0#32 }
          s.sndCnt := by
  simp [State.establish, State.setSnd_eq, State.disarm_eq]

theorem State.advanceBase_eq (s : State) (a : Word) :
    s.advanceBase a
      = s.afterSending [] { s.snd with base := a, dupCnt := 0#2, retry := 0#16, armed := false, tmrCnt := 0#32 }
          s.sndCnt := by
  simp [State.advanceBase, State.setSnd_eq, State.disarm_eq]

theorem State.rxSynSent_accept {s : State} {g : Segment} (hack : g.ack = s.cfg.isn) :
    s.rxSynSent .synAck g = s.establish.fillAndFinish := if_pos ⟨rfl, hack⟩

theorem State.rxSynSent_discard {s : State} {k : SndKind} {g : Segment} (h : ¬(k = .synAck ∧ g.ack = s.cfg.isn)) :
    s.rxSynSent k g = .ok (s.countS .discard) := if_neg h

theorem State.rxEstablished_progress {s : State} {g : Segment} (low : s.snd.base.toNat < g.ack.toNat)
    (high : g.ack.toNat ≤ s.snd.next.toNat) : s.rxEstablished .ack g = s.ackProgress g.ack := if_pos ⟨rfl, low, high⟩

theorem State.rxEstablished_duplicate {s : State} {g : Segment} (hack : g.ack = s.snd.base)
    (outstanding : s.snd.base.toNat < s.snd.next.toNat) : s.rxEstablished .ack g = s.ackDuplicate := by
  have noProgress : ¬(SndKind.ack = .ack ∧ s.snd.base.toNat < g.ack.toNat ∧ g.ack.toNat ≤ s.snd.next.toNat) := by
    rw [hack]
    omega
  rw [State.rxEstablished, if_neg noProgress, if_pos ⟨rfl, hack, outstanding⟩]

/-- The laws of a run stand when the base moves inside the outstanding range (R88). -/
theorem State.advanceBase_running {s : State} (run : s.snd.Running s.cfg) {a : Word} (low : s.snd.base.toNat < a.toNat)
    (high : a.toNat ≤ s.snd.next.toNat) : (s.advanceBase a).snd.Running s.cfg :=
  { run with
    dup := Nat.zero_le _, retry := Nat.zero_le _, isnBase := run.isnBase.trans low.le, baseNext := high
    window := (Nat.sub_le_sub_left low.le _).trans run.window }

/-- An ACK of everything: the FIN leaves (R88, R86). -/
theorem State.ackProgress_closing {s : State} (run : s.snd.Running s.cfg) (hst : s.snd.st = .established) {a : Word}
    (high : a.toNat ≤ s.snd.next.toNat) (hend : a = s.snd.endSeq) :
    s.ackProgress a
      = .ok (s.afterSending [enc 0x08#8 a 0#32 []]
          { s.snd with
            st := .closing, base := a, dupCnt := 0#2, retry := 0#16, armed := true, tmrCnt := s.cfg.rtoTicks }
          (s.sndCnt.add 1 .segSent)) := by
  have nextEnd := run.nextEnd
  rw [hend] at high
  have hnext : s.snd.next = s.snd.endSeq := BitVec.eq_of_toNat_eq (le_antisymm nextEnd high)
  have idle : ¬s.snd.next.toNat > a.toNat := by
    rw [hnext, hend]
    exact lt_irrefl _
  rw [State.ackProgress, if_neg idle, State.fillAndFinish_closing (s := s.advanceBase a) hst hend hnext,
    State.advanceBase_eq, State.afterSending_afterSending]
  rfl

/-- An ACK of a part: the window is filled from the new base (R88, R85). -/
theorem State.ackProgress_window {s : State} (run : s.snd.Running s.cfg) (hst : s.snd.st = .established)
    (legal : s.fwd.Legal) (src : s.src.wf = true) {a : Word} (low : s.snd.base.toNat < a.toNat)
    (high : a.toNat ≤ s.snd.next.toNat) (hleft : a ≠ s.snd.endSeq) :
    s.ackProgress a
      = .ok (s.afterSending (s.dataFrames s.snd.next.toNat (s.windowEnd a))
          { s.snd with
            base := a, next := BitVec.ofNat 32 (s.windowEnd a), dupCnt := 0#2, retry := 0#16, armed := true
            tmrCnt := s.cfg.rtoTicks }
          (s.sndCnt.addRange s.cfg.mss.toNat s.snd.next.toNat (s.windowEnd a))) := by
  have moved := State.advanceBase_running run low high
  unfold State.ackProgress
  split
  · next left =>
    have filling : (s.advanceBase a).arm.Filling :=
      ⟨hst, { moved with }, moved.timerLaw_armed left rfl rfl rfl, legal⟩
    rw [filling.fillAndFinish_eq src (fun _ => rfl) hleft, State.arm_eq, State.advanceBase_eq,
      State.afterSending_afterSending, State.afterSending_afterSending]
    rfl
  · next left =>
    have filling : (s.advanceBase a).Filling := ⟨hst, moved, Sender.timerLaw_disarmed _ left rfl rfl, legal⟩
    rw [filling.fillAndFinish_eq src nofun hleft, State.advanceBase_eq, State.afterSending_afterSending]
    rfl

/-- A duplicate ACK that is not the third is counted (R89). -/
theorem State.ackDuplicate_counted {s : State} (hdup : s.snd.dupCnt.toNat < 2) :
    s.ackDuplicate = .ok ((s.countS .dupAck).setSnd { s.snd with dupCnt := s.snd.dupCnt + 1#2 }) := by
  have notThird : s.snd.dupCnt.toNat + 1 ≠ Config.dupThresh := by
    have : Config.dupThresh = 3 := rfl
    omega
  have value : BitVec.ofNat 2 (s.snd.dupCnt.toNat + 1) = s.snd.dupCnt + 1#2 := by
    rw [BitVec.ofNat_add, BitVec.ofNat_toNat, BitVec.setWidth_eq]
  rw [State.ackDuplicate, if_neg notThird, fit_eq_ok.mpr ⟨by omega, rfl⟩, value]

/-- The third duplicate ACK resends the piece at the base (R89). -/
theorem State.ackDuplicate_third {s : State} (run : s.snd.Running s.cfg) (src : s.src.wf = true)
    (outstanding : s.snd.base.toNat < s.snd.next.toNat) (hdup : s.snd.dupCnt = 2#2) :
    s.ackDuplicate
      = .ok (s.afterSending
          [enc 0x01#8 s.snd.base 0#32
            (s.sourceRange s.snd.base.toNat (min s.cfg.mss.toNat (s.snd.next.toNat - s.snd.base.toNat)))]
          { s.snd with dupCnt := 0#2 }
          ((((s.sndCnt.add 1 .dupAck).add 1 .segSent).add
            (min s.cfg.mss.toNat (s.snd.next.toNat - s.snd.base.toNat)) .bytes).add 1 .retxFast)) := by
  have third : s.snd.dupCnt.toNat + 1 = Config.dupThresh := by
    rw [hdup]
    rfl
  have piece := State.resendPiece_eq (s := s.countS .dupAck) run src le_rfl outstanding
  rw [BitVec.ofNat_toNat, BitVec.setWidth_eq] at piece
  rw [State.countS_snd, State.countS_cfg] at piece
  rw [State.ackDuplicate, if_pos third, piece, State.countS_eq]
  simp only [State.countS_eq, State.setSnd_eq, State.afterSending_afterSending, State.afterSending_snd,
    State.afterSending_sndCnt, State.afterSending_sourceRange, List.nil_append, List.append_nil]

/-! ### The expiry (R91) -/

theorem State.resend_synSent {s : State} (hst : s.snd.st = .synSent) :
    s.resend
      = .ok (s.afterSending [enc 0x04#8 s.cfg.isn 0#32 []] s.snd ((s.sndCnt.add 1 .segSent).add 1 .retxTo)) := by
  simp [State.resend, hst, State.sendControl_eq, State.countS_eq, flagSyn]

theorem State.resend_closing {s : State} (hst : s.snd.st = .closing) :
    s.resend
      = .ok (s.afterSending [enc 0x08#8 s.snd.base 0#32 []] s.snd ((s.sndCnt.add 1 .segSent).add 1 .retxTo)) := by
  simp [State.resend, hst, State.sendControl_eq, State.countS_eq, flagFin]

theorem State.resend_established {s : State} (run : s.snd.Running s.cfg) (src : s.src.wf = true)
    (hst : s.snd.st = .established) :
    s.resend
      = .ok (s.afterSending (s.dataFrames s.snd.base.toNat s.snd.next.toNat) s.snd
          ((s.sndCnt.addRange s.cfg.mss.toNat s.snd.base.toNat s.snd.next.toNat).add
            (pieces s.cfg.mss.toNat s.snd.base.toNat s.snd.next.toNat).length .retxTo)) := by
  rw [State.resend, hst]
  exact State.resendLoop_eq run src le_rfl le_rfl

/-- The state in which an expiry within the budget resends: the timer has run out and the retry is counted (R91). -/
def State.retrying (s : State) : State := s.countDown.setSnd { s.countDown.snd with retry := s.snd.retry + 1#16 }

theorem State.retrying_eq (s : State) :
    s.retrying
      = s.afterSending [] { s.snd with retry := s.snd.retry + 1#16, tmrCnt := s.snd.tmrCnt - 1#32 } s.sndCnt := by
  simp [State.retrying, State.countDown, State.setSnd_eq]

section
variable {s : State} (run : s.snd.Running s.cfg) (hbudget : s.snd.retry ≠ s.cfg.maxRetry)
include run hbudget

/-- Within the budget the next retry count fits the budget and its register. -/
theorem State.retry_below : s.snd.retry.toNat < s.cfg.maxRetry.toNat :=
  lt_of_le_of_ne run.retry fun e => hbudget (BitVec.eq_of_toNat_eq e)

theorem State.retrying_running : s.retrying.snd.Running s.retrying.cfg := by
  have counted : (s.snd.retry + 1#16).toNat ≤ s.cfg.maxRetry.toNat := by
    have := State.retry_below run hbudget
    bv_omega
  exact { run with retry := counted }

/-- An expiry within the budget resends and starts the timer again. -/
theorem State.expire_of_budget {u : State} (hu : s.retrying.resend = .ok u) : s.countDown.expire = .ok u.arm := by
  have fits : s.snd.retry.toNat + 1 < 2 ^ 16 :=
    lt_of_le_of_lt (State.retry_below run hbudget) s.cfg.maxRetry.isLt
  have value : BitVec.ofNat 16 (s.snd.retry.toNat + 1) = s.snd.retry + 1#16 := by
    rw [BitVec.ofNat_add, BitVec.ofNat_toNat, BitVec.setWidth_eq]
  have counted : fit 16 (s.countDown.snd.retry.toNat + 1) = .ok (s.snd.retry + 1#16) :=
    fit_eq_ok.mpr ⟨fits, value.symm⟩
  have budget : s.countDown.snd.retry ≠ s.countDown.cfg.maxRetry := hbudget
  rw [State.retrying] at hu
  rw [State.expire, if_neg budget, counted]
  simp only [hu]

/-- The tick of an expiry within the budget: the frames and counters of the resend, one retry more, the timer at
`CFG_RTO_TICKS`. -/
theorem exec_sTick_retry (ha : s.snd.armed = true) (hone : s.snd.tmrCnt = 1#32) {fs : List Bytes} {k : SndCounters}
    (hu : s.retrying.resend = .ok (s.retrying.afterSending fs s.retrying.snd k)) :
    exec .sTick s
      = .next { s.sentBySender fs with
          snd := { s.snd with retry := s.snd.retry + 1#16, tmrCnt := s.cfg.rtoTicks }, sndCnt := k } := by
  rw [exec_sTick_armed ha, State.tick_at_one hone, State.expire_of_budget run hbudget hu, State.arm_eq,
    State.afterSending_afterSending, State.retrying_eq, State.afterSending_afterSending, State.answerSnd_afterSending]
  simp [ha]

end

end Sys2Proof.Machine
end

section
/-! The handshake, the acknowledgments and the expiry (42_sender.md R85 to R89, R91). -/

namespace Sys2Proof.Machine

/-- The answer of `S.RX` to a frame it has counted as received. -/
theorem State.answerSnd_received (s : State) (fs : List Bytes) (x : Sender) (k : SndCounters) :
    s.answerSnd (.ok ((s.countS .segRcvd).afterSending fs x k))
      = .next { s.sentBySender fs with snd := x, sndCnt := k } := by
  rw [State.countS_eq, State.afterSending_afterSending, State.answerSnd_afterSending, List.nil_append]

/-- Settles O27: after the handshake the window is empty at `CFG_ISN`, and the loop of R85 fills it. -/
theorem synAckOpensTheWindow : Obligations.SynAckOpensTheWindow := by
  intro f g s c hst hdec hlen
  have hopen : s.snd.st ≠ .closed := by simp [hst]
  have run := c.running hopen
  have empty_iff := c.totalLen_eq_zero_iff hopen
  have accepted (hflags : g.flags = 0x6#4) (hack : g.ack = s.cfg.isn) :
      exec (.sRx f) s = s.answerSnd (s.countS .segRcvd).establish.fillAndFinish := by
    rw [exec_sRx_segment hopen hdec hlen ((classifyS_eq_synAck_iff _).mpr hflags),
      State.rxSndState_synSent (s := s.countS .segRcvd) hst, State.rxSynSent_accept (s := s.countS .segRcvd) hack]
  refine ⟨fun hflags hack hempty => ?_, fun hflags hack hfull => ?_, fun hother => ?_⟩
  · have all := empty_iff.mp hempty
    rw [accepted hflags hack, State.fillAndFinish_closing rfl all all, State.establish_eq,
      State.afterSending_afterSending, State.answerSnd_received]
    rfl
  · have filling : (s.countS .segRcvd).establish.Filling :=
      State.establish_filling (s := s.countS .segRcvd) run c.others.fwd
    rw [accepted hflags hack, filling.fillAndFinish_eq c.source nofun (mt empty_iff.mpr hfull), State.establish_eq,
      State.afterSending_afterSending, State.answerSnd_received]
    rfl
  · refine exec_sRx_discard hopen hdec fun k hk _ => ?_
    rw [State.rxSndState_synSent (s := s.countS .segRcvd) hst, State.rxSynSent_discard]
    rintro ⟨rfl, hack⟩
    exact hother ⟨(classifyS_eq_synAck_iff _).mp hk, hack⟩

/-- Settles O28: the timer is armed before the loop where something is left outstanding, else by its first iteration. -/
theorem ackMovesTheWindow : Obligations.AckMovesTheWindow := by
  intro f g s c hst hdec hlen hflags low high
  have hopen : s.snd.st ≠ .closed := by simp [hst]
  have run := c.running hopen
  have progress : exec (.sRx f) s = s.answerSnd ((s.countS .segRcvd).ackProgress g.ack) := by
    rw [exec_sRx_segment hopen hdec hlen ((classifyS_eq_ack_iff _).mpr hflags),
      State.rxSndState_established (s := s.countS .segRcvd) hst,
      State.rxEstablished_progress (s := s.countS .segRcvd) low high]
  refine ⟨fun hend => ?_, fun hleft => ?_⟩
  · rw [progress, State.ackProgress_closing (s := s.countS .segRcvd) run hst high hend, State.answerSnd_received]
    rfl
  · rw [progress, State.ackProgress_window (s := s.countS .segRcvd) run hst c.others.fwd c.source low high hleft,
      State.answerSnd_received]
    rfl

/-- Settles O29: the count decides between counting and the resend; with nothing outstanding R96 discards. -/
theorem duplicateAcksTriggerFastRetransmit : Obligations.DuplicateAcksTriggerFastRetransmit := by
  intro f g s c hst hdec hlen hflags hack
  have hopen : s.snd.st ≠ .closed := by simp [hst]
  have duplicate (outstanding : s.snd.base.toNat < s.snd.next.toNat) :
      exec (.sRx f) s = s.answerSnd (s.countS .segRcvd).ackDuplicate := by
    rw [exec_sRx_segment hopen hdec hlen ((classifyS_eq_ack_iff _).mpr hflags),
      State.rxSndState_established (s := s.countS .segRcvd) hst,
      State.rxEstablished_duplicate (s := s.countS .segRcvd) hack outstanding]
  refine ⟨fun outstanding hdup => ?_, fun outstanding hdup => ?_, fun idle => ?_⟩
  · have small : s.snd.dupCnt.toNat < 2 := lt_of_le_of_ne c.dupBound fun e => hdup (BitVec.eq_of_toNat_eq e)
    rw [duplicate outstanding, State.ackDuplicate_counted (s := s.countS .segRcvd) small, State.answerSnd_silent] <;>
      rfl
  · rw [duplicate outstanding,
      State.ackDuplicate_third (s := s.countS .segRcvd) (c.running hopen) c.source outstanding hdup,
      State.answerSnd_received]
    rfl
  · refine exec_sRx_discard hopen hdec fun k _ _ => ?_
    rw [State.rxSndState_established (s := s.countS .segRcvd) hst, State.rxEstablished_discard]
    · rintro ⟨-, low, high⟩
      simp only [State.countS_snd, hack] at low high
      omega
    · rintro ⟨-, -, outstanding⟩
      simp only [State.countS_snd] at outstanding
      omega

/-- Settles O33: the three active states differ in what `State.resend` sends. -/
theorem expiryResendsFromTheBase : Obligations.ExpiryResendsFromTheBase := by
  intro s c ha hone hbudget
  have run := c.running (c.sender.open_of_armed ha)
  have retrying := State.retrying_running run hbudget
  refine ⟨fun hst => ?_, fun hst => ?_, fun hst => ?_⟩
  · exact exec_sTick_retry run hbudget ha hone (State.resend_synSent (s := s.retrying) hst)
  · have bytes : BitVec.ofNat 32 (s.snd.next.toNat - s.snd.base.toNat) = s.snd.next - s.snd.base := by
      have := run.baseNext
      bv_omega
    rw [← bytes]
    exact exec_sTick_retry run hbudget ha hone (State.resend_established (s := s.retrying) retrying c.source hst)
  · exact exec_sTick_retry run hbudget ha hone (State.resend_closing (s := s.retrying) hst)

end Sys2Proof.Machine
end

section
/-! The transition table of the sender (42_sender.md R82). -/

namespace Sys2Proof.Machine

/-! ### `S.TICK` -/

/-- Everything a tick of an armed timer does to the sender's registers (R91, R92). -/
theorem State.tick_snd {s t : State} (h : s.tick = .ok t) :
    (s.snd.tmrCnt ≠ 1#32 ∧ t.snd = { s.snd with tmrCnt := s.snd.tmrCnt - 1#32 })
      ∨ (s.snd.tmrCnt = 1#32 ∧ s.snd.retry = s.cfg.maxRetry
        ∧ t.snd = { s.snd with st := .closed, fail := true, armed := false, tmrCnt := 0#32 })
      ∨ (s.snd.tmrCnt = 1#32 ∧ s.snd.retry ≠ s.cfg.maxRetry
        ∧ t.snd = { s.snd with retry := s.snd.retry + 1#16, armed := true, tmrCnt := s.cfg.rtoTicks }) := by
  rcases (State.tick_eq_ok h).2 with ⟨hmore, rfl⟩ | ⟨hzero, he⟩
  · exact .inl ⟨fun hone => hmore (sub_eq_zero.mpr hone), rfl⟩
  · have hone : s.snd.tmrCnt = 1#32 := sub_eq_zero.mp hzero
    rcases State.expire_eq_ok he with ⟨hspent, rfl⟩ | ⟨hbudget, -, u, hu, rfl⟩
    · exact .inr (.inl ⟨hone, hspent, rfl⟩)
    · refine .inr (.inr ⟨hone, hbudget, ?_⟩)
      obtain ⟨frame, hsnd⟩ := State.resend_frame hu
      have hcfg : u.cfg = s.cfg := frame.cfg
      simp [hsnd, hcfg, State.countDown, BitVec.ofNat_add]

/-! ### `S.RX` -/

/-- The frame carries a segment with these flags, not longer than `CFG_MSS`, of which `p` holds (R84, R94). -/
def State.hears (s : State) (f : Bytes) (flags : BitVec 4) (p : Segment → Prop) : Prop :=
  ∃ g, dec f = some g ∧ g.len.toNat ≤ s.cfg.mss.toNat ∧ g.flags = flags ∧ p g

/-- A frame meets the state rules with the kind and the property in question, or it does not: the front end drops it, or
its kind is another, or it lacks the property. -/
theorem State.rxSndFrame_hears {s t : State} {f : Bytes} (h : s.rxSndFrame f = .ok t) {kind : SndKind}
    {flags : BitVec 4} (hkind : ∀ flags', classifyS flags' = some kind ↔ flags' = flags) (p : Segment → Prop) :
    (s.hears f flags p ∧ ∃ g, p g ∧ s.rxSndState kind g = .ok t)
      ∨ (¬s.hears f flags p ∧ (t.snd = s.snd ∨ ∃ k g, ¬(k = kind ∧ p g) ∧ s.rxSndState k g = .ok t)) := by
  rcases s.rxSndFrame_cases f with ⟨g, k, hdec, hk, hlen, e⟩ | ⟨hnone, c, e⟩
  · rw [e] at h
    by_cases hp : k = kind ∧ p g
    · obtain ⟨rfl, hp⟩ := hp
      exact .inl ⟨⟨g, hdec, hlen, (hkind _).mp hk, hp⟩, g, hp, h⟩
    · refine .inr ⟨?_, .inr ⟨k, g, hp, h⟩⟩
      rintro ⟨g', hdec', -, hflags, hp'⟩
      cases hdec.symm.trans hdec'
      exact hp ⟨Option.some.inj (hk.symm.trans ((hkind _).mpr hflags)), hp'⟩
  · cases e.symm.trans h
    refine .inr ⟨?_, .inl rfl⟩
    rintro ⟨g, hdec, hlen, hflags, -⟩
    cases (hnone g hdec hlen).symm.trans ((hkind _).mpr hflags)

theorem State.finishCheck_st {s : State} (hst : s.snd.st = .established) :
    s.finishCheck.snd.st = if s.snd.base = s.snd.endSeq then .closing else .established := by
  by_cases hb : s.snd.base = s.snd.endSeq
  · rw [State.finishCheck, if_pos ⟨hst, hb⟩, if_pos hb]
    rfl
  · rw [State.finishCheck, if_neg fun e => hb e.2, if_neg hb, hst]

theorem State.fillAndFinish_st {s t : State} (hst : s.snd.st = .established) (h : s.fillAndFinish = .ok t) :
    t.snd.st = if s.snd.base = s.snd.endSeq then .closing else .established := by
  obtain ⟨u, hu, rfl⟩ := State.fillAndFinish_eq_ok h
  obtain ⟨ust, -, -, -, -, ubase, uend⟩ := State.fill_snd hu
  rw [State.finishCheck_st (ust.trans hst), ubase, uend]

theorem State.ackProgress_st {s t : State} (hst : s.snd.st = .established) {a : Word} (h : s.ackProgress a = .ok t) :
    t.snd.st = if a = s.snd.endSeq then .closing else .established := by
  unfold State.ackProgress at h
  split at h
  · exact State.fillAndFinish_st (s := (s.advanceBase a).arm) hst h
  · exact State.fillAndFinish_st (s := s.advanceBase a) hst h

theorem State.ackDuplicate_st {s t : State} (h : s.ackDuplicate = .ok t) : t.snd.st = s.snd.st := by
  rcases State.ackDuplicate_eq_ok h with ⟨-, u, -, rfl⟩ | ⟨-, -, rfl⟩ <;> rfl

/-- R88, R89, R96: only the ACK of everything outstanding, up to `SND_END`, ends `ESTABLISHED`. -/
theorem State.rxEstablished_st {s t : State} (hst : s.snd.st = .established) {k : SndKind} {g : Segment}
    (h : s.rxEstablished k g = .ok t) :
    t.snd.st
      = if k = .ack ∧ s.snd.base.toNat < g.ack.toNat ∧ g.ack.toNat ≤ s.snd.next.toNat ∧ g.ack = s.snd.endSeq
        then .closing else .established := by
  unfold State.rxEstablished at h
  split at h
  · next progress =>
    rw [State.ackProgress_st hst h]
    simp only [progress, true_and]
  · next noProgress =>
    rw [if_neg fun e => noProgress ⟨e.1, e.2.1, e.2.2.1⟩]
    split at h
    · exact (State.ackDuplicate_st h).trans hst
    · cases h
      exact hst

/-- `S.RX` in an active state: what it does to `SND_STATE` is what the state rules do to it. -/
theorem exec_sRx_hears {s t : State} {f : Bytes} (hst : s.snd.st ≠ .closed) (h : exec (.sRx f) s = .next t)
    {kind : SndKind} {flags : BitVec 4} (hkind : ∀ flags', classifyS flags' = some kind ↔ flags' = flags)
    (p : Segment → Prop) :
    (s.hears f flags p ∧ ∃ g, p g ∧ ∃ u, (s.countS .segRcvd).rxSndState kind g = .ok u ∧ t.snd = u.snd)
      ∨ (¬s.hears f flags p
        ∧ (t.snd = s.snd
          ∨ ∃ k g, ¬(k = kind ∧ p g) ∧ ∃ u, (s.countS .segRcvd).rxSndState k g = .ok u ∧ t.snd = u.snd)) := by
  rcases execSRx_eq_next h with ⟨hclosed, -⟩ | ⟨-, u, r, hu, rfl⟩
  · exact absurd hclosed hst
  · rcases State.rxSndFrame_hears hu hkind p with ⟨hears, g, hp, hg⟩ | ⟨deaf, same | ⟨k, g, hp, hg⟩⟩
    · exact .inl ⟨hears, g, hp, u, hg, rfl⟩
    · exact .inr ⟨deaf, .inl same⟩
    · exact .inr ⟨deaf, .inr ⟨k, g, hp, u, hg, rfl⟩⟩

theorem sRx_transition_synSent {s t : State} {f : Bytes} (c : s.Coherent) (hst : s.snd.st = .synSent)
    (h : exec (.sRx f) s = .next t) : sndTransition (.sRx f) s t := by
  have hopen : s.snd.st ≠ .closed := by simp [hst]
  have empty_iff : s.cfg.totalLen = 0#32 ↔ s.cfg.isn = s.snd.endSeq := c.totalLen_eq_zero_iff hopen
  simp only [sndTransition, hst]
  rcases exec_sRx_hears hopen h classifyS_eq_synAck_iff (fun g => g.ack = s.cfg.isn) with
    ⟨valid, g, hack, u, hu, htu⟩ | ⟨invalid, hrest⟩
  · rw [State.rxSndState_synSent (s := s.countS .segRcvd) hst,
      State.rxSynSent_accept (s := s.countS .segRcvd) hack] at hu
    have st := State.fillAndFinish_st (s := (s.countS .segRcvd).establish) rfl hu
    have st' : t.snd.st = if s.cfg.isn = s.snd.endSeq then .closing else .established := htu ▸ st
    rw [st']
    refine ⟨fun hfull => if_neg (mt empty_iff.mpr hfull.2), fun hempty => if_pos (empty_iff.mp hempty.2), fun no => ?_⟩
    exact absurd valid no
  · refine ⟨fun yes => absurd yes.1 invalid, fun yes => absurd yes.1 invalid, fun _ => ?_⟩
    rcases hrest with same | ⟨k, g, hno, u, hu, htu⟩
    · rw [same, hst]
    · rw [State.rxSndState_synSent (s := s.countS .segRcvd) hst,
        State.rxSynSent_discard (s := s.countS .segRcvd) hno] at hu
      cases hu
      rw [htu]
      exact hst

theorem sRx_transition_established {s t : State} {f : Bytes} (hst : s.snd.st = .established)
    (h : exec (.sRx f) s = .next t) : sndTransition (.sRx f) s t := by
  have hopen : s.snd.st ≠ .closed := by simp [hst]
  simp only [sndTransition, hst]
  rcases exec_sRx_hears hopen h classifyS_eq_ack_iff (fun g => s.snd.base.toNat < g.ack.toNat
      ∧ g.ack.toNat ≤ s.snd.next.toNat ∧ g.ack = s.snd.endSeq) with ⟨last, g, hack, u, hu, htu⟩ | ⟨notLast, hrest⟩
  · rw [State.rxSndState_established (s := s.countS .segRcvd) hst] at hu
    have st := State.rxEstablished_st (s := s.countS .segRcvd) hst hu
    refine ⟨fun _ => ?_, fun no => absurd last no⟩
    rw [htu, st]
    exact if_pos ⟨rfl, hack⟩
  · refine ⟨fun yes => absurd yes notLast, fun _ => ?_⟩
    rcases hrest with same | ⟨k, g, hno, u, hu, htu⟩
    · rw [same, hst]
    · rw [State.rxSndState_established (s := s.countS .segRcvd) hst] at hu
      have st := State.rxEstablished_st (s := s.countS .segRcvd) hst hu
      rw [htu, st]
      exact if_neg hno

theorem sRx_transition_closing {s t : State} {f : Bytes} (hst : s.snd.st = .closing)
    (h : exec (.sRx f) s = .next t) : sndTransition (.sRx f) s t := by
  have hopen : s.snd.st ≠ .closed := by simp [hst]
  simp only [sndTransition, hst]
  rcases exec_sRx_hears hopen h classifyS_eq_finAck_iff (fun g => g.ack = s.snd.base) with
    ⟨valid, g, hack, u, hu, htu⟩ | ⟨invalid, hrest⟩
  · rw [State.rxSndState_closing (s := s.countS .segRcvd) hst,
      State.rxSndClosing_accept (s := s.countS .segRcvd) hack] at hu
    cases hu
    exact ⟨fun _ => by simp [htu], fun no => absurd valid no⟩
  · refine ⟨fun yes => absurd yes invalid, fun _ => ?_⟩
    rcases hrest with same | ⟨k, g, hno, u, hu, htu⟩
    · rw [same, hst]
    · rw [State.rxSndState_closing (s := s.countS .segRcvd) hst,
        State.rxSndClosing_discard (s := s.countS .segRcvd) hno] at hu
      cases hu
      rw [htu]
      exact hst

theorem sTick_transition {s t : State} (h : exec .sTick s = .next t) : sndTransition .sTick s t := by
  simp only [sndTransition]
  rcases execSTick_eq_next h with ⟨hd, r, rfl⟩ | ⟨ha, u, r, hu, rfl⟩
  · exact ⟨fun yes => by simp [hd] at yes, fun _ => rfl⟩
  · rcases State.tick_snd hu with ⟨hmore, hsnd⟩ | ⟨hone, hspent, hsnd⟩ | ⟨-, hbudget, hsnd⟩ <;>
      rw [State.answer_snd, hsnd]
    · exact ⟨fun yes => absurd yes.2.1 hmore, fun _ => rfl⟩
    · exact ⟨fun _ => ⟨rfl, rfl⟩, fun no => absurd ⟨ha, hone, hspent⟩ no⟩
    · exact ⟨fun yes => absurd yes.2.2 hbudget, fun _ => rfl⟩

theorem sOpen_transition {s t : State} (h : exec .sOpen s = .next t) : sndTransition .sOpen s t := by
  obtain ⟨refusedState, fresh⟩ := openStartsARun s
  cases hst : s.snd.st with
  | closed =>
    simp only [sndTransition, hst]
    by_cases hused : s.snd.done = true ∨ s.snd.fail = true
    · cases (refusedState (.inr hused)).symm.trans h
      exact ⟨fun ⟨hd, hf, _⟩ => by simp [hd, hf] at hused, fun _ => hst⟩
    · obtain ⟨hd, hf⟩ : s.snd.done = false ∧ s.snd.fail = false := by simpa using hused
      obtain ⟨refusedConfig, accepted⟩ := fresh hst hd hf
      by_cases hcfg : s.cfg.runnable
      · cases (accepted hcfg).symm.trans h
        exact ⟨fun _ => rfl, fun no => absurd ⟨hd, hf, hcfg⟩ no⟩
      · cases (refusedConfig hcfg).symm.trans h
        exact ⟨fun yes => absurd yes.2.2 hcfg, fun _ => hst⟩
  | _ =>
    cases (refusedState (.inl (by simp [hst]))).symm.trans h
    simp [sndTransition, hst]

/-- Settles O35: each sender operation follows its rows of the table, and no other operation writes `SND_STATE`. -/
theorem senderFollowsItsTransitionTable : Obligations.SenderFollowsItsTransitionTable := by
  intro i s t c h
  cases i with
  | sOpen => exact sOpen_transition h
  | sRx f =>
    cases hst : s.snd.st with
    | closed =>
      cases (execSRx_closed f hst).symm.trans h
      simp [sndTransition, hst]
    | synSent => exact sRx_transition_synSent c hst h
    | established => exact sRx_transition_established hst h
    | closing => exact sRx_transition_closing hst h
  | sTick => exact sTick_transition h
  | _ =>
    have same := exec_snd_of_not_senderOp h rfl
    exact congrArg Sender.st same

end Sys2Proof.Machine
end

section
/-! The ticks that an active sender survives (42_sender.md R91, R92, R95 item 6). -/

namespace Sys2Proof.Machine

/-- The ticks up to the end of a run without acknowledgments: those the timer still counts, and a full count for each
retry left. -/
def State.ticksLeft (s : State) : Nat :=
  s.snd.tmrCnt.toNat + (s.cfg.maxRetry.toNat - s.snd.retry.toNat) * s.cfg.rtoTicks.toNat

/-- One tick of an armed timer: the last one fails the run, any other uses up one and keeps the run as it is. -/
theorem exec_sTick_ticksLeft {s t : State} (c : s.Coherent) (ha : s.snd.armed = true) (h : exec .sTick s = .next t) :
    (s.ticksLeft = 1 ∧ t.snd = { s.snd with st := .closed, fail := true, armed := false, tmrCnt := 0#32 })
      ∨ (t.snd.armed = true ∧ t.ticksLeft + 1 = s.ticksLeft ∧ t.snd.st = s.snd.st ∧ t.snd.base = s.snd.base
        ∧ t.snd.next = s.snd.next) := by
  have run := c.running (c.sender.open_of_armed ha)
  have cfg : t.cfg = s.cfg := (exec_sender_frame rfl h).cfg
  obtain ⟨pos, -⟩ := c.armedCount ha
  rcases execSTick_eq_next h with ⟨hd, -⟩ | ⟨-, u, r, hu, rfl⟩
  · simp [hd] at ha
  rw [State.ticksLeft, State.ticksLeft, cfg, State.answer_snd]
  rcases State.tick_snd hu with ⟨hmore, hsnd⟩ | ⟨hone, hspent, hsnd⟩ | ⟨hone, hbudget, hsnd⟩
  · have counted : (s.snd.tmrCnt - 1#32).toNat + 1 = s.snd.tmrCnt.toNat := by bv_omega
    refine .inr ⟨by rw [hsnd]; exact ha, ?_, by rw [hsnd], by rw [hsnd], by rw [hsnd]⟩
    rw [hsnd, ← counted]
    exact Nat.add_right_comm _ _ _
  · refine .inl ⟨?_, hsnd⟩
    rw [hone, hspent, Nat.sub_self, Nat.zero_mul]
    rfl
  · have below := State.retry_below run hbudget
    have retries : s.cfg.maxRetry.toNat - s.snd.retry.toNat
        = s.cfg.maxRetry.toNat - (s.snd.retry + 1#16).toNat + 1 := by bv_omega
    refine .inr ⟨by rw [hsnd], ?_, by rw [hsnd], by rw [hsnd], by rw [hsnd]⟩
    rw [hsnd, hone, retries, Nat.succ_mul]
    simp only [BitVec.toNat_ofNat]
    omega

theorem State.Coherent.ticksLeft_pos {s : State} (c : s.Coherent) (ha : s.snd.armed = true) : 1 ≤ s.ticksLeft :=
  (c.armedCount ha).1.trans (Nat.le_add_right _ _)

theorem ticks_succ {s t : State} (h : exec .sTick s = .next t) (n : Nat) : ticks (n + 1) s = ticks n t := by
  rw [ticks, h]

/-- By induction on the ticks left: the last one fails the run, and before it the run goes on. -/
theorem ticks_fail_at_last {n : Nat} {s : State} (c : s.Coherent) (ha : s.snd.armed = true) (hn : s.ticksLeft = n) :
    (∃ t, ticks n s = .next t ∧ t.snd.st = .closed ∧ t.snd.fail = true ∧ t.snd.base = s.snd.base
        ∧ t.snd.next = s.snd.next)
      ∧ ∀ k, k < n → ∃ t, ticks k s = .next t ∧ t.snd.st = s.snd.st ∧ t.snd.fail = false := by
  have notFailed := (c.running (c.sender.open_of_armed ha)).notFailed
  induction n generalizing s with
  | zero =>
    have := c.ticksLeft_pos ha
    omega
  | succ n ih =>
    obtain ⟨t, ht⟩ := exec_answers c .sTick
    rcases exec_sTick_ticksLeft c ha ht with ⟨last, hsnd⟩ | ⟨armed, left, st, base, next⟩
    · obtain rfl : n = 0 := by omega
      refine ⟨⟨t, ticks_succ ht 0, by rw [hsnd], by rw [hsnd], by rw [hsnd], by rw [hsnd]⟩, fun k hk => ?_⟩
      obtain rfl : k = 0 := by omega
      exact ⟨s, rfl, rfl, notFailed⟩
    · have c' := exec_coherent c ht
      obtain ⟨⟨u, hu, closed, fail, ubase, unext⟩, before⟩ :=
        ih c' armed (by omega) (c'.running (c'.sender.open_of_armed armed)).notFailed
      refine ⟨⟨u, (ticks_succ ht n).trans hu, closed, fail, ubase.trans base, unext.trans next⟩, fun k hk => ?_⟩
      cases k with
      | zero => exact ⟨s, rfl, rfl, notFailed⟩
      | succ k =>
        obtain ⟨v, hv, vst, vfail⟩ := before k (Nat.lt_of_succ_lt_succ hk)
        exact ⟨v, (ticks_succ ht k).trans hv, vst.trans st, vfail⟩

/-- Settles O38: `n` is `State.ticksLeft`, and each tick but the last uses up one. -/
theorem ticksAloneExhaustTheBudget : Obligations.TicksAloneExhaustTheBudget := fun _ c ha =>
  ticks_fail_at_last c ha rfl

end Sys2Proof.Machine
end

section
/-! SUPPORT. `R.RX` up to the state rules (R101, R111) and what it answers (R108), each as an equation a case. -/

namespace Sys2Proof.Machine

/-! ### The kinds of a segment (R111) -/

theorem classifyR_eq_syn_iff (flags : BitVec 4) : classifyR flags = some .syn ↔ flags = 0x4#4 := by
  revert flags
  decide

theorem classifyR_eq_fin_iff (flags : BitVec 4) : classifyR flags = some .fin ↔ flags = 0x8#4 := by
  revert flags
  decide

theorem classifyR_eq_data_iff (flags : BitVec 4) : classifyR flags = some .data ↔ flags = 0x1#4 ∨ flags = 0x3#4 := by
  revert flags
  decide

theorem classifyR_eq_none_iff (flags : BitVec 4) : classifyR flags = none ↔ flags ∉ [0x1#4, 0x3#4, 0x4#4, 0x8#4] := by
  revert flags
  decide

/-! ### Answers (R56, R75, R108) -/

/-- An operation that has nothing sent answers with no frames. -/
theorem State.answerRcv_silent {s t : State} (port : t.rcvOut = s.rcvOut) :
    s.answerRcv t = .next (t.answer (.frames [])) := by
  simp [State.answerRcv, port]

/-- An operation that ends with a reply answers with what came out of the injector for it. -/
theorem State.answerRcv_reply {s t : State} (port : t.rcvOut = s.rcvOut) (flags : Byte) (a : Word) :
    s.answerRcv (t.sendReply flags a)
      = .next { t.sentByReceiver [enc flags 0#32 a []] with rcvCnt := t.rcvCnt.add 1 .segSent } := by
  simp [State.answerRcv, State.sendReply, State.emitR, State.countR, State.answer, State.sentByReceiver, port]

/-! ### The front end (R101) -/

/-- A segment that the front end lets through meets the state rules. -/
theorem State.rxRcvFrame_of_dec {s : State} {f : Bytes} {g : Segment} {k : RcvKind} (hdec : dec f = some g)
    (hlen : g.len.toNat ≤ s.cfg.mss.toNat) (hk : classifyR g.flags = some k) :
    s.rxRcvFrame f = s.rxRcvState k g := by
  simp [State.rxRcvFrame, hdec, hk, Nat.not_lt.mpr hlen]

theorem State.rxRcvFrame_corrupt {s : State} {f : Bytes} (hdec : dec f = none) :
    s.rxRcvFrame f = s.countR .corrupt := by
  simp [State.rxRcvFrame, hdec]

/-- A flag set without a kind, a segment longer than `CFG_MSS` and a segment that the state rules discard are counted. -/
theorem State.rxRcvFrame_discard {s : State} {f : Bytes} {g : Segment} (hdec : dec f = some g)
    (hrule : ∀ k, classifyR g.flags = some k → g.len.toNat ≤ s.cfg.mss.toNat →
      s.rxRcvState k g = s.countR .discard) :
    s.rxRcvFrame f = s.countR .discard := by
  cases hk : classifyR g.flags with
  | none => simp [State.rxRcvFrame, hdec, hk]
  | some k =>
    rcases Nat.lt_or_ge s.cfg.mss.toNat g.len.toNat with long | short
    · simp [State.rxRcvFrame, hdec, hk, long]
    · rw [State.rxRcvFrame_of_dec hdec short hk]
      exact hrule k hk short

section
variable {s : State} {f : Bytes} {g : Segment} (hst : s.rcv.st ≠ .closed)
include hst

/-- A receiver that is not closed counts the frame, then acts on it. -/
theorem exec_rRx_active (f : Bytes) : exec (.rRx f) s = s.answerRcv ((s.countR .segRcvd).rxRcvFrame f) :=
  execRRx_active f hst

/-- A discarded segment is counted as received and as discarded, without any other effect. -/
theorem exec_rRx_discard (hdec : dec f = some g)
    (hrule : ∀ k, classifyR g.flags = some k → g.len.toNat ≤ s.cfg.mss.toNat →
      (s.countR .segRcvd).rxRcvState k g = (s.countR .segRcvd).countR .discard) :
    exec (.rRx f) s
      = .next { s with
          rcvCnt := { s.rcvCnt with segRcvd := s.rcvCnt.segRcvd + 1#32, discard := s.rcvCnt.discard + 1#32 }
          response := some ⟨.ok, .frames []⟩ } := by
  rw [exec_rRx_active hst f, State.rxRcvFrame_discard hdec hrule, State.answerRcv_silent] <;> rfl

/-- A segment that passes the front end and is answered: counted as received, then the state rule and its reply. -/
theorem exec_rRx_reply {k : RcvKind} (hdec : dec f = some g) (hlen : g.len.toNat ≤ s.cfg.mss.toNat)
    (hk : classifyR g.flags = some k) {t : State} {flags : Byte} {a : Word}
    (hrule : (s.countR .segRcvd).rxRcvState k g = t.sendReply flags a) (port : t.rcvOut = s.rcvOut) :
    exec (.rRx f) s
      = .next { t.sentByReceiver [enc flags 0#32 a []] with rcvCnt := t.rcvCnt.add 1 .segSent } := by
  rw [exec_rRx_active hst f, State.rxRcvFrame_of_dec (s := s.countR .segRcvd) hdec hlen hk, hrule,
    State.answerRcv_reply port]

end

/-! ### The state rules (R102 to R106) -/

theorem State.rxRcvState_listening {s : State} (hst : s.rcv.st = .listening) (k : RcvKind) (g : Segment) :
    s.rxRcvState k g = s.rxListening k g := by
  simp [State.rxRcvState, hst]

theorem State.rxRcvState_closing {s : State} (hst : s.rcv.st = .closing) (k : RcvKind) (g : Segment) :
    s.rxRcvState k g = s.rxRcvClosing k g := by
  simp [State.rxRcvState, hst]

section
variable {s : State} (hst : s.rcv.st = .established) (g : Segment)
include hst

theorem State.rxRcvState_data : s.rxRcvState .data g = s.rxData g := by rw [State.rxRcvState, hst]

theorem State.rxRcvState_syn : s.rxRcvState .syn g = s.rxSynAgain g := by rw [State.rxRcvState, hst]

theorem State.rxRcvState_fin : s.rxRcvState .fin g = s.rxFin g := by rw [State.rxRcvState, hst]

end

/-- R103: at the cursor, where the cursor stays a sequence number. -/
theorem State.rxData_deliver {s : State} {g : Segment} (hseq : g.seq = s.rcv.expected)
    (fits : s.rcv.expected.toNat + g.len.toNat ≤ Config.maxSeq) : s.rxData g = s.deliver g := by
  rw [State.rxData, if_pos hseq, if_neg (Nat.not_lt.mpr fits)]

theorem State.rxData_overrun {s : State} {g : Segment} (hseq : g.seq = s.rcv.expected)
    (beyond : s.rcv.expected.toNat + g.len.toNat > Config.maxSeq) : s.rxData g = s.countR .discard := by
  rw [State.rxData, if_pos hseq, if_pos beyond]

/-- R103: behind the cursor. -/
theorem State.rxData_duplicate {s : State} {g : Segment} (behind : g.seq.toNat < s.rcv.expected.toNat) :
    s.rxData g = (s.countR .dup).sendReply flagAck s.rcv.expected := by
  rw [State.rxData, if_neg fun hseq => by simp [hseq] at behind, if_pos behind]

theorem State.rxData_ahead {s : State} {g : Segment} (ahead : s.rcv.expected.toNat < g.seq.toNat) :
    s.rxData g = (s.countR .ahead).sendReply flagAck s.rcv.expected := by
  rw [State.rxData, if_neg fun hseq => by simp [hseq] at ahead, if_neg (Nat.not_lt.mpr ahead.le)]

end Sys2Proof.Machine
end

section
/-! The rules of the receiver (43_receiver.md R101 to R107, R109, R111). -/

namespace Sys2Proof.Machine

/-- Settles O39: a closed receiver does nothing, and each of the other cases counts and stops. -/
theorem receiverFrontEndDrops : Obligations.ReceiverFrontEndDrops := by
  intro f s
  refine ⟨fun hst => ?_, fun hst hdec => ?_, fun g hst hdec hdrop => ?_⟩
  · rw [exec, execRRx_closed f hst, State.answerRcv_silent] <;> rfl
  · rw [exec_rRx_active hst f, State.rxRcvFrame_corrupt hdec, State.answerRcv_silent] <;> rfl
  · refine exec_rRx_discard hst hdec fun k hk hlen => ?_
    rcases hdrop with long | hflags
    · omega
    · rw [(classifyR_eq_none_iff _).mpr hflags] at hk
      cases hk

/-- Settles O40: the SYN is the one kind that a listening receiver acts on. -/
theorem synIsAccepted : Obligations.SynIsAccepted := by
  intro f g s hst hdec hlen
  have active : s.rcv.st ≠ .closed := by simp [hst]
  have rule (k : RcvKind) := State.rxRcvState_listening (s := s.countR .segRcvd) hst k g
  refine ⟨fun hflags => ?_, fun hflags => ?_⟩
  · exact exec_rRx_reply active hdec hlen ((classifyR_eq_syn_iff _).mpr hflags) ((rule .syn).trans (if_pos rfl)) rfl
  · refine exec_rRx_discard active hdec fun k hk _ => (rule k).trans (if_neg ?_)
    rintro rfl
    exact hflags ((classifyR_eq_syn_iff _).mp hk)

/-- Settles O41: the place of the segment before the cursor, at it or ahead of it decides, and at it the end of the
sequence numbers. -/
theorem dataIsDeliveredInOrder : Obligations.DataIsDeliveredInOrder := by
  intro f g s hst hdec hlen hflags
  have active : s.rcv.st ≠ .closed := by simp [hst]
  have data : classifyR g.flags = some .data := (classifyR_eq_data_iff _).mpr hflags
  have rule := State.rxRcvState_data (s := s.countR .segRcvd) hst g
  refine ⟨fun hseq fits => ?_, fun hseq beyond => ?_, fun behind => ?_, fun ahead => ?_⟩
  · rw [exec_rRx_reply active hdec hlen data
      (rule.trans (State.rxData_deliver (s := s.countR .segRcvd) hseq fits)) rfl]
    simp [State.sentByReceiver, State.advanced, RcvCounters.add, flagAck]
  · refine exec_rRx_discard active hdec fun k hk _ => ?_
    cases data.symm.trans hk
    exact rule.trans (State.rxData_overrun (s := s.countR .segRcvd) hseq beyond)
  · exact exec_rRx_reply active hdec hlen data
      (rule.trans (State.rxData_duplicate (s := s.countR .segRcvd) behind)) rfl
  · exact exec_rRx_reply active hdec hlen data
      (rule.trans (State.rxData_ahead (s := s.countR .segRcvd) ahead)) rfl

/-- Settles O42: the SYN is answered where it is the accepted one. -/
theorem repeatedSynIsAnswered : Obligations.RepeatedSynIsAnswered := by
  intro f g s hst hdec hlen hflags
  have active : s.rcv.st ≠ .closed := by simp [hst]
  have syn : classifyR g.flags = some .syn := (classifyR_eq_syn_iff _).mpr hflags
  have rule := State.rxRcvState_syn (s := s.countR .segRcvd) hst g
  refine ⟨fun hseq => ?_, fun hother => ?_⟩
  · exact exec_rRx_reply active hdec hlen syn (rule.trans (if_pos hseq)) rfl
  · refine exec_rRx_discard active hdec fun k hk _ => ?_
    cases syn.symm.trans hk
    exact rule.trans (if_neg hother)

/-- Settles O43: the FIN is accepted where it stands at the cursor. -/
theorem finAtTheCursorIsAccepted : Obligations.FinAtTheCursorIsAccepted := by
  intro f g s hst hdec hlen hflags
  have active : s.rcv.st ≠ .closed := by simp [hst]
  have fin : classifyR g.flags = some .fin := (classifyR_eq_fin_iff _).mpr hflags
  have rule := State.rxRcvState_fin (s := s.countR .segRcvd) hst g
  refine ⟨fun hseq => ?_, fun hother => ?_⟩
  · exact exec_rRx_reply active hdec hlen fin (rule.trans (if_pos hseq)) rfl
  · refine exec_rRx_discard active hdec fun k hk _ => ?_
    cases fin.symm.trans hk
    exact rule.trans (if_neg hother)

/-- Settles O44: the FIN at the cursor is the one segment that a closing receiver answers. -/
theorem lingerAnswersTheFin : Obligations.LingerAnswersTheFin := by
  intro f g s hst hdec hlen
  have active : s.rcv.st ≠ .closed := by simp [hst]
  have rule (k : RcvKind) := State.rxRcvState_closing (s := s.countR .segRcvd) hst k g
  refine ⟨fun hflags hseq => ?_, fun hother => ?_⟩
  · exact exec_rRx_reply active hdec hlen ((classifyR_eq_fin_iff _).mpr hflags)
      ((rule .fin).trans (if_pos ⟨rfl, hseq⟩)) rfl
  · refine exec_rRx_discard active hdec fun k hk _ => (rule k).trans (if_neg ?_)
    rintro ⟨rfl, hseq⟩
    exact hother ⟨(classifyR_eq_fin_iff _).mp hk, hseq⟩

/-- Settles O45: the one state in which `R.CLOSE` is not refused. -/
theorem closeEndsTheLinger : Obligations.CloseEndsTheLinger := fun _ =>
  ⟨fun hst => execRClose_closing hst, fun hst => execRClose_refused hst⟩

end Sys2Proof.Machine
end

section
/-! The transition table of the receiver (43_receiver.md R100) and the sink (R110). -/

namespace Sys2Proof.Machine

/-! ### What a frame does to the registers and the sink -/

/-- What the frame `f` does to the receiver's registers and the sink, with the segment that did it: unlike
`ReceiverEffect` it also says when a frame must change them (R102, R103, R105). -/
inductive FrameEffect (f : Bytes) (s t : State) : Prop
  | kept (rcv : t.rcv = s.rcv) (sink : t.sink = s.sink)
      (noSyn : s.rcv.st = .listening → ∀ g, dec f = some g → g.len.toNat ≤ s.cfg.mss.toNat → g.flags ≠ 0x4#4)
      (noFin : s.rcv.st = .established → ∀ g, dec f = some g → g.len.toNat ≤ s.cfg.mss.toNat → g.flags = 0x8#4 →
        g.seq ≠ s.rcv.expected)
  | opened (g : Segment) (decoded : dec f = some g) (len : g.len.toNat ≤ s.cfg.mss.toNat) (flags : g.flags = 0x4#4)
      (st : s.rcv.st = .listening) (rcv : t.rcv = { st := .established, expected := g.seq, irs := g.seq })
      (sink : t.sink = s.sink)
  | finished (g : Segment) (decoded : dec f = some g) (len : g.len.toNat ≤ s.cfg.mss.toNat) (flags : g.flags = 0x8#4)
      (st : s.rcv.st = .established) (cursor : g.seq = s.rcv.expected) (rcv : t.rcv = { s.rcv with st := .closing })
      (sink : t.sink = s.sink)
  | delivered (g : Segment) (decoded : dec f = some g) (flags : g.flags = 0x1#4 ∨ g.flags = 0x3#4)
      (st : s.rcv.st = .established) (cursor : g.seq = s.rcv.expected)
      (fits : s.rcv.expected.toNat + g.len.toNat ≤ Config.maxSeq)
      (rcv : t.rcv = { s.rcv with expected := s.advanced g }) (sink : t.sink = s.sink ++ g.payload)

/-- A frame that leaves the registers and the sink as they are, where the receiver waits for nothing. -/
theorem FrameEffect.idle {f : Bytes} {s t : State} (rcv : t.rcv = s.rcv) (sink : t.sink = s.sink)
    (listening : s.rcv.st ≠ .listening) (established : s.rcv.st ≠ .established) : FrameEffect f s t :=
  .kept rcv sink (fun hst => absurd hst listening) (fun hst => absurd hst established)

/-- A frame that leaves them as they are, since its segment is not the one the receiver waits for. -/
theorem FrameEffect.of_segment {f : Bytes} {s t : State} {g : Segment} (hdec : dec f = some g) (rcv : t.rcv = s.rcv)
    (sink : t.sink = s.sink) (noSyn : s.rcv.st = .listening → g.flags ≠ 0x4#4)
    (noFin : s.rcv.st = .established → g.flags = 0x8#4 → g.seq ≠ s.rcv.expected) : FrameEffect f s t := by
  refine .kept rcv sink (fun hst g' hdec' _ => ?_) (fun hst g' hdec' _ => ?_) <;> cases hdec.symm.trans hdec'
  · exact noSyn hst
  · exact noFin hst

section
variable {s t : State} {f : Bytes} {g : Segment} (hdec : dec f = some g) (hlen : g.len.toNat ≤ s.cfg.mss.toNat)
  (h : exec (.rRx f) s = .next t)
include hdec hlen h

theorem exec_rRx_effect_listening (hst : s.rcv.st = .listening) : FrameEffect f s t := by
  obtain ⟨accepted, discarded⟩ := synIsAccepted f g s hst hdec hlen
  by_cases hflags : g.flags = 0x4#4
  · cases (accepted hflags).symm.trans h
    exact .opened g hdec hlen hflags hst rfl rfl
  · cases (discarded hflags).symm.trans h
    exact .of_segment hdec rfl rfl (fun _ => hflags) (fun e => by simp [hst] at e)

theorem exec_rRx_effect_data (hst : s.rcv.st = .established) (hflags : g.flags = 0x1#4 ∨ g.flags = 0x3#4) :
    FrameEffect f s t := by
  obtain ⟨delivered, discarded, duplicate, ahead⟩ := dataIsDeliveredInOrder f g s hst hdec hlen hflags
  have other {u : State} (rcv : u.rcv = s.rcv) (sink : u.sink = s.sink) : FrameEffect f s u :=
    .of_segment hdec rcv sink (fun e => by simp [hst] at e) (fun _ e => by simp [e] at hflags)
  rcases Nat.lt_trichotomy g.seq.toNat s.rcv.expected.toNat with hbehind | hseq | hahead
  · cases (duplicate hbehind).symm.trans h
    exact other rfl rfl
  · have cursor : g.seq = s.rcv.expected := BitVec.eq_of_toNat_eq hseq
    by_cases fits : s.rcv.expected.toNat + g.len.toNat ≤ 2 ^ 32 - 1
    · cases (delivered cursor fits).symm.trans h
      exact .delivered g hdec hflags hst cursor fits rfl rfl
    · cases (discarded cursor (Nat.lt_of_not_le fits)).symm.trans h
      exact other rfl rfl
  · cases (ahead hahead).symm.trans h
    exact other rfl rfl

theorem exec_rRx_effect_syn (hst : s.rcv.st = .established) (hflags : g.flags = 0x4#4) : FrameEffect f s t := by
  obtain ⟨answered, discarded⟩ := repeatedSynIsAnswered f g s hst hdec hlen hflags
  have other {u : State} (rcv : u.rcv = s.rcv) (sink : u.sink = s.sink) : FrameEffect f s u :=
    .of_segment hdec rcv sink (fun e => by simp [hst] at e) (fun _ e => by simp [e] at hflags)
  by_cases hseq : g.seq = s.rcv.irs
  · cases (answered hseq).symm.trans h
    exact other rfl rfl
  · cases (discarded hseq).symm.trans h
    exact other rfl rfl

theorem exec_rRx_effect_fin (hst : s.rcv.st = .established) (hflags : g.flags = 0x8#4) : FrameEffect f s t := by
  obtain ⟨accepted, discarded⟩ := finAtTheCursorIsAccepted f g s hst hdec hlen hflags
  by_cases hseq : g.seq = s.rcv.expected
  · cases (accepted hseq).symm.trans h
    exact .finished g hdec hlen hflags hst hseq rfl rfl
  · cases (discarded hseq).symm.trans h
    exact .of_segment hdec rfl rfl (fun e => by simp [hst] at e) (fun _ _ => hseq)

theorem exec_rRx_effect_closing (hst : s.rcv.st = .closing) : FrameEffect f s t := by
  obtain ⟨answered, discarded⟩ := lingerAnswersTheFin f g s hst hdec hlen
  by_cases hfin : g.flags = 0x8#4 ∧ g.seq = s.rcv.expected
  · cases (answered hfin.1 hfin.2).symm.trans h
    exact .idle rfl rfl (by simp [hst]) (by simp [hst])
  · cases (discarded hfin).symm.trans h
    exact .idle rfl rfl (by simp [hst]) (by simp [hst])

end

/-- Every frame, in every state: the front end, then the rule of the state and of the flag set. -/
theorem exec_rRx_effect {s t : State} {f : Bytes} (h : exec (.rRx f) s = .next t) : FrameEffect f s t := by
  obtain ⟨closed, corrupt, dropped⟩ := receiverFrontEndDrops f s
  by_cases hst : s.rcv.st = .closed
  · cases (closed hst).symm.trans h
    exact .idle rfl rfl (by simp [hst]) (by simp [hst])
  cases hdec : dec f with
  | none =>
    cases (corrupt hst hdec).symm.trans h
    exact .kept rfl rfl (fun _ g e => by simp [hdec] at e) (fun _ g e => by simp [hdec] at e)
  | some g =>
    rcases Nat.lt_or_ge s.cfg.mss.toNat g.len.toNat with long | hlen
    · cases (dropped g hst hdec (.inl long)).symm.trans h
      refine .kept rfl rfl (fun _ g' e hlen => ?_) (fun _ g' e hlen => ?_) <;>
        cases hdec.symm.trans e <;> exact absurd hlen (Nat.not_le.mpr long)
    by_cases hflags : g.flags ∈ [0x1#4, 0x3#4, 0x4#4, 0x8#4]
    · cases hrcv : s.rcv.st with
      | listening => exact exec_rRx_effect_listening hdec hlen h hrcv
      | established =>
        rcases (by simpa [or_assoc] using hflags :
            (g.flags = 0x1#4 ∨ g.flags = 0x3#4) ∨ g.flags = 0x4#4 ∨ g.flags = 0x8#4) with data | syn | fin
        · exact exec_rRx_effect_data hdec hlen h hrcv data
        · exact exec_rRx_effect_syn hdec hlen h hrcv syn
        · exact exec_rRx_effect_fin hdec hlen h hrcv fin
      | closing => exact exec_rRx_effect_closing hdec hlen h hrcv
      | closed => exact absurd hrcv hst
    · cases (dropped g hst hdec (.inr hflags)).symm.trans h
      exact .of_segment hdec rfl rfl (fun _ e => by simp [e] at hflags) (fun _ e => by simp [e] at hflags)

/-! ### The table (R100) -/

/-- Only the receiver's operations write its registers and the sink (R8, R61). -/
theorem exec_rcv_of_not_receiverOp {i : Instr} {s t : State} (h : exec i s = .next t) (hi : isReceiverOp i = false) :
    t.rcv = s.rcv ∧ t.sink = s.sink := by
  rcases exec_cases h with ⟨-, frame⟩ | ⟨hr, -⟩ | ⟨u, r, e, rfl⟩
  · exact ⟨frame.rcv, frame.sink⟩
  · rw [hr] at hi
    cases hi
  · exact ⟨e.frame.rcv, e.frame.sink⟩

theorem rRx_transition {s t : State} {f : Bytes} (h : exec (.rRx f) s = .next t) : rcvTransition (.rRx f) s t := by
  cases exec_rRx_effect h with
  | kept rcv _ noSyn noFin =>
    cases hst : s.rcv.st with
    | listening =>
      simp only [rcvTransition, hst, rcv]
      exact ⟨fun ⟨g, hdec, hlen, hflags⟩ => absurd hflags (noSyn hst g hdec hlen), fun _ => trivial⟩
    | established =>
      simp only [rcvTransition, hst, rcv]
      exact ⟨fun ⟨g, hdec, hlen, hflags, hseq⟩ => absurd hseq (noFin hst g hdec hlen hflags), fun _ => trivial⟩
    | _ => simp [rcvTransition, hst, rcv]
  | opened g hdec hlen hflags st rcv =>
    simp only [rcvTransition, st, rcv]
    exact ⟨fun _ => trivial, fun no => absurd ⟨g, hdec, hlen, hflags⟩ no⟩
  | finished g hdec hlen hflags st cursor rcv =>
    simp only [rcvTransition, st, rcv]
    exact ⟨fun _ => trivial, fun no => absurd ⟨g, hdec, hlen, hflags, cursor⟩ no⟩
  | delivered g hdec hflags st _ _ rcv =>
    simp only [rcvTransition, st, rcv]
    refine ⟨fun ⟨g', hdec', _, hfin, _⟩ => ?_, fun _ => trivial⟩
    cases hdec.symm.trans hdec'
    simp [hfin] at hflags

theorem rClose_transition {s t : State} (h : exec .rClose s = .next t) : rcvTransition .rClose s t := by
  obtain ⟨ends, refused⟩ := closeEndsTheLinger s
  cases hst : s.rcv.st with
  | closing =>
    cases (ends hst).symm.trans h
    simp [rcvTransition, hst]
  | _ =>
    cases (refused (by simp [hst])).symm.trans h
    simp [rcvTransition, hst]

/-- Settles O46: each receiver operation follows its rows of the table, and no other operation writes `RCV_STATE`. -/
theorem receiverFollowsItsTransitionTable : Obligations.ReceiverFollowsItsTransitionTable := by
  refine ⟨rfl, fun i s t h => ?_⟩
  cases i with
  | rRx f => exact rRx_transition h
  | rClose => exact rClose_transition h
  | _ => exact congrArg Receiver.st (exec_rcv_of_not_receiverOp h rfl).1

/-! ### The sink (R110) -/

theorem execRClose_cursor {s t : State} (h : exec .rClose s = .next t) :
    t.sink = s.sink ∧ t.rcv.expected = s.rcv.expected ∧ t.rcv.irs = s.rcv.irs := by
  obtain ⟨ends, refused⟩ := closeEndsTheLinger s
  by_cases hst : s.rcv.st = .closing
  · cases (ends hst).symm.trans h
    exact ⟨rfl, rfl, rfl⟩
  · cases (refused hst).symm.trans h
    exact ⟨rfl, rfl, rfl⟩

/-- Settles O47: of the effects of a frame only a delivery appends, and only a delivery or the first SYN writes the
cursor registers; no other operation writes either. -/
theorem sinkOnlyGrowsAtTheCursor : Obligations.SinkOnlyGrowsAtTheCursor := by
  intro i s t h
  cases i with
  | rRx f =>
    cases exec_rRx_effect h with
    | kept rcv sink => exact .inl ⟨sink, by rw [rcv], by rw [rcv]⟩
    | finished _ _ _ _ _ _ rcv sink => exact .inl ⟨sink, by rw [rcv], by rw [rcv]⟩
    | delivered g hdec _ st cursor fits rcv sink =>
      refine .inr (.inl ⟨f, g, rfl, hdec, st, cursor, sink, ?_, by rw [rcv]⟩)
      rw [rcv, ← dec_len hdec]
      exact State.advanced_toNat fits
    | opened g hdec _ hflags st rcv sink =>
      exact .inr (.inr ⟨f, g, rfl, hdec, st, hflags, sink, by rw [rcv], by rw [rcv]⟩)
  | rClose => exact .inl (execRClose_cursor h)
  | _ =>
    obtain ⟨rcv, sink⟩ := exec_rcv_of_not_receiverOp h rfl
    exact .inl ⟨sink, by rw [rcv], by rw [rcv]⟩

theorem State.SinkHolds.of_eq {s t : State} {src : Nat → Byte} (h : s.SinkHolds src) (sink : t.sink = s.sink) :
    t.SinkHolds src := by
  unfold State.SinkHolds at *
  rw [sink]
  exact h

/-- The sink holds the source where what is appended are the bytes of the source from the sink's end on. -/
theorem State.SinkHolds.append {s t : State} {src : Nat → Byte} (h : s.SinkHolds src) {n : Nat}
    (sink : t.sink = s.sink ++ (List.range n).map fun k => src (s.sink.length + k)) : t.SinkHolds src := by
  unfold State.SinkHolds at *
  have length : t.sink.length = s.sink.length + n := by simp [sink]
  calc t.sink = (List.range s.sink.length).map src ++ (List.range n).map fun k => src (s.sink.length + k) := by
        rw [← h, sink]
    _ = (List.range t.sink.length).map src := by
        rw [length, List.range_add, List.map_append, List.map_map]
        rfl

/-- Settles O48: a delivered segment stands at the cursor, which is the sink's length past `RCV_IRS` (R39 item 8). -/
theorem sinkStaysAPrefixOfTheSource : Obligations.SinkStaysAPrefixOfTheSource := by
  intro s t f src c hmatch holds hsource h
  cases exec_rRx_effect h with
  | kept _ sink => exact ⟨holds.of_eq sink, sink ▸ List.prefix_refl _⟩
  | opened _ _ _ _ _ _ sink => exact ⟨holds.of_eq sink, sink ▸ List.prefix_refl _⟩
  | finished _ _ _ _ _ _ _ sink => exact ⟨holds.of_eq sink, sink ▸ List.prefix_refl _⟩
  | delivered g hdec hflags _ cursor _ _ sink =>
    have payload := hsource g hdec hflags (cursor ▸ c.received)
    have offset : g.seq.toNat - s.rcv.irs.toNat = s.sink.length := by rw [cursor, hmatch]
    rw [offset] at payload
    refine ⟨holds.append (payload ▸ sink), ?_⟩
    rw [sink]
    exact List.prefix_append _ _

end Sys2Proof.Machine
end

section
/-! SUPPORT. The register space through the names of its registers: what the map of R36 lists, what an access to an
offset answers (R115 to R117), and what a read finds after a write (R118). -/

namespace Sys2Proof.Machine

/-! ### The status words (R29, R30) -/

/-- Words joined to one are the digits of its value. -/
theorem toNat_append_eq_add {m n : Nat} (x : BitVec m) (y : BitVec n) :
    (x ++ y).toNat = x.toNat * 2 ^ n + y.toNat := by
  rw [BitVec.toNat_append, ← Nat.shiftLeft_add_eq_or_of_lt y.isLt, Nat.shiftLeft_eq]

theorem Sender.status_toNat (x : Sender) : x.status.toNat = sndStatusRef x := by
  simp only [Sender.status, sndStatusRef, toNat_append_eq_add, BitVec.toNat_ofBool]
  cases x.st <;> simp [SndState.code] <;> omega

theorem Receiver.status_toNat (x : Receiver) : x.status.toNat = rcvStatusRef x := by
  unfold Receiver.status rcvStatusRef
  cases x.st <;> rfl

/-! ### The map (R36, R115) -/

/-- The sender counters in the order of their offsets. -/
def SndCtr.inOrder : List SndCtr := [.segSent, .segRcvd, .retxTo, .retxFast, .corrupt, .dupAck, .discard, .bytes]

/-- The receiver counters in the order of their offsets. -/
def RcvCtr.inOrder : List RcvCtr := [.segSent, .segRcvd, .corrupt, .dup, .ahead, .discard, .bytes]

/-- The registers other than the counters, in the order of their offsets. -/
def Csr.beforeCounters : List Csr :=
  [.cfgMss, .cfgMaxWin, .cfgRtoTicks, .cfgMaxRetry, .cfgIsn, .cfgTotalLen, .cfgLocalPort, .cfgRemotePort,
    .leFlpT, .leFcpT, .leRlpT, .leRcpT, .lePrngFwd, .lePrngRev,
    .sndStatus, .sndBase, .sndNext, .sndEnd, .sndTmrCnt, .rcvStatus, .rcvExpected, .rcvIrs]

/-- The registers in the order of their offsets. -/
def Csr.inOrder : List Csr :=
  Csr.beforeCounters ++ SndCtr.inOrder.map Csr.sndCnt ++ RcvCtr.inOrder.map Csr.rcvCnt

theorem Csr.mem_inOrder (r : Csr) : r ∈ Csr.inOrder := by
  cases r with
  | sndCnt c => cases c <;> decide
  | rcvCnt c => cases c <;> decide
  | _ => decide

theorem registerMap_eq_map_inOrder (s : State) :
    registerMap s = Csr.inOrder.map fun r => (r.offset, (s.readCsr r).toNat) := by
  simp (disch := decide) [registerMap, Csr.inOrder, Csr.beforeCounters, SndCtr.inOrder, RcvCtr.inOrder, Csr.offset,
    State.readCsr, SndCounters.get, RcvCounters.get, -BitVec.toNat_setWidth, BitVec.toNat_setWidth_of_le,
    Sender.status_toNat, Receiver.status_toNat]

/-- The map lists each register at its offset, with the value a read answers. -/
theorem mem_registerMap {s : State} {addr : Byte} {v : Nat} :
    (addr, v) ∈ registerMap s ↔ ∃ r : Csr, addr = r.offset ∧ v = (s.readCsr r).toNat := by
  simp [registerMap_eq_map_inOrder, Csr.mem_inOrder, eq_comm]

/-! ### Accesses (R115 to R117) -/

theorem csrAt_eq_none {addr : Byte} (h : ¬mapped addr) : csrAt addr = none := by
  rw [Option.eq_none_iff_forall_ne_some]
  exact fun r hr => h (mapped_iff_offset.mpr ⟨r, csrAt_eq_some.mp hr⟩)

theorem execRegRd_refused (s : State) {addr : Byte} (h : csrAt addr = none) :
    execRegRd addr s = s.raise .refusedOperand := by
  simp [execRegRd, h]

/-- The read-only registers are the ones from offset 0x40 on (R36). -/
theorem Csr.access_eq_ro_iff (r : Csr) : r.access = .ro ↔ 0x40 ≤ r.offset.toNat := by
  cases r with
  | sndCnt c => cases c <;> decide
  | rcvCnt c => cases c <;> decide
  | _ => decide

/-- An accepted write: the register is writable and no lock stands against it (R37, R116). -/
theorem execRegWr_accepted {s : State} (d : Word) {r : Csr} (writable : r.access ≠ .ro)
    (lock : r.access = .rwLocked → s.unlocked = true) :
    execRegWr r.offset d s = .next ((s.writeCsr d r).answer .none) := by
  cases hr : r.access with
  | ro => exact absurd hr writable
  | rw => exact execRegWr_rw s d hr
  | rwLocked => rw [execRegWr_rwLocked s d hr, if_pos (lock hr)]

/-- A write that answered `OK` has stored its word in a writable register: every other answer is a refusal. -/
theorem execRegWr_eq_ok {s t : State} {addr : Byte} {d : Word} (h : execRegWr addr d s = .next t)
    (ok : t.response = some ⟨.ok, .none⟩) :
    ∃ r : Csr, addr = r.offset ∧ r.access ≠ .ro ∧ t = (s.writeCsr d r).answer .none := by
  have not_raised {o : OutcomeCode} (ho : o ≠ .ok) : execRegWr addr d s ≠ s.raise o := by
    intro raised
    cases h.symm.trans raised
    exact ho (by simpa using ok)
  cases ha : csrAt addr with
  | none => exact absurd (execRegWr_refused d ha) (not_raised (by decide))
  | some r =>
    obtain rfl := csrAt_eq_some.mp ha
    have writable : r.access ≠ .ro := fun hr => not_raised (by decide) (execRegWr_ro s d hr)
    have lock : r.access = .rwLocked → s.unlocked = true := fun hr => by
      by_contra hl
      exact not_raised (o := .refusedLocked) (by decide) (by rw [execRegWr_rwLocked s d hr, if_neg hl])
    cases (execRegWr_accepted d writable lock).symm.trans h
    exact ⟨r, rfl, writable, rfl⟩

/-! ### The conditioned values (R118) -/

theorem conditionSeed_eq (d : Word) : conditionSeed d = if d.toNat ≠ 0 then d else 1#32 := by
  have zero : d = 0#32 ↔ d.toNat = 0 := BitVec.toNat_inj.symm
  simp only [conditionSeed, zero, ne_eq, ite_not]

/-- The word a register reads after an accepted write of `d`. -/
def Csr.conditioned (d : Word) : Csr → Word
  | .cfgMss | .cfgMaxRetry | .cfgLocalPort | .cfgRemotePort => (lowHalf d).setWidth 32
  | .leFlpT | .leFcpT | .leRlpT | .leRcpT => (clampThreshold d).setWidth 32
  | .lePrngFwd | .lePrngRev => conditionSeed d
  | _ => d

theorem lowHalf_setWidth (d : Word) : (lowHalf d).setWidth 32 = BitVec.ofNat 32 (d.toNat % 2 ^ 16) := by
  rw [← lowHalf_toNat, BitVec.ofNat_toNat]

theorem clampThreshold_setWidth (d : Word) : (clampThreshold d).setWidth 32 = BitVec.ofNat 32 (min d.toNat 65536) := by
  apply BitVec.eq_of_toNat_eq
  simp [clampThreshold, Config.alwaysFires]

theorem conditionSeed_eq_ofNat (d : Word) :
    conditionSeed d = BitVec.ofNat 32 (if d.toNat ≠ 0 then d.toNat else 1) := by
  rw [conditionSeed_eq]
  split <;> simp

/-- The conditioned word is the one of R118. -/
theorem Csr.conditioned_eq (d : Word) {r : Csr} (writable : r.access ≠ .ro) :
    r.conditioned d = BitVec.ofNat 32 (conditionRef r.offset d) := by
  cases r with
  | cfgMss | cfgMaxRetry | cfgLocalPort | cfgRemotePort => exact lowHalf_setWidth d
  | leFlpT | leFcpT | leRlpT | leRcpT => exact clampThreshold_setWidth d
  | lePrngFwd | lePrngRev => exact conditionSeed_eq_ofNat d
  | cfgMaxWin | cfgRtoTicks | cfgIsn | cfgTotalLen => simp [Csr.conditioned, conditionRef, Csr.offset]
  | _ => exact absurd rfl writable

/-- What a read finds after a write: the conditioned word in the register written, the old value in every other. -/
theorem State.readCsr_writeCsr (s : State) (d : Word) {r : Csr} (writable : r.access ≠ .ro) (q : Csr) :
    (s.writeCsr d r).readCsr q = if q = r then r.conditioned d else s.readCsr q := by
  cases r with
  | sndStatus | sndBase | sndNext | sndEnd | sndTmrCnt | rcvStatus | rcvExpected | rcvIrs | sndCnt | rcvCnt =>
    exact absurd rfl writable
  | _ => cases q <;> rfl

/-- The response register lies outside the register space (R55). -/
@[simp] theorem State.readCsr_answer (s : State) (x : Results) (q : Csr) : (s.answer x).readCsr q = s.readCsr q := by
  cases q <;> rfl

end Sys2Proof.Machine
end

section
/-! The statements about the register accesses (44_csr_access.md). -/

namespace Sys2Proof.Machine

/-- Settles O18: the map lists exactly the registers, each with the word a read answers. -/
theorem regRdReadsEveryRegister : Obligations.RegRdReadsEveryRegister := by
  intro s
  refine ⟨fun ⟨addr, v⟩ hp => ?_, fun addr => ⟨?_, fun h => execRegRd_refused s (csrAt_eq_none h)⟩⟩
  · obtain ⟨r, rfl, rfl⟩ := mem_registerMap.mp hp
    refine ⟨(s.readCsr r).isLt, ?_⟩
    rw [BitVec.ofNat_toNat, BitVec.setWidth_eq]
    exact execRegRd_offset s r
  · simp [mapped_iff_offset, mem_registerMap]

/-- Settles O22: an accepted write has stored its word in a register, and a read looks up what was stored. -/
theorem writtenRegistersReadBack : Obligations.WrittenRegistersReadBack := by
  intro s t addr data h ok
  obtain ⟨r, rfl, writable, rfl⟩ := execRegWr_eq_ok h ok
  refine ⟨⟨_, execRegRd_offset _ r, ?_⟩, fun other hmapped hne => ?_⟩
  · rw [State.readCsr_answer, State.readCsr_writeCsr s data writable, if_pos rfl, Csr.conditioned_eq data writable]
    rfl
  · obtain ⟨q, rfl⟩ := mapped_iff_offset.mp hmapped
    have hqr : q ≠ r := fun e => hne (e ▸ rfl)
    refine ⟨_, _, execRegRd_offset s q, execRegRd_offset _ q, ?_⟩
    rw [State.readCsr_answer, State.readCsr_writeCsr s data writable, if_neg hqr]
    rfl

/-- Settles O19: no register stands at an unmapped offset, and those from offset 0x40 on are read-only. -/
theorem badAccessesAreRefused : Obligations.BadAccessesAreRefused := by
  intro s addr data
  refine ⟨fun h => ?_, fun h high => ?_⟩
  · have nothing := csrAt_eq_none h
    exact ⟨execRegRd_refused s nothing, execRegWr_refused data nothing⟩
  · obtain ⟨r, rfl⟩ := mapped_iff_offset.mp h
    exact execRegWr_ro s data (r.access_eq_ro_iff.mpr high)

/-- Settles O20: the write of each register by name, locked or not, with the conditioning of R118. -/
theorem regWrStoresTheConditionedValue : Obligations.RegWrStoresTheConditionedValue := by
  intro s d
  refine ⟨fun snd rcv => ?_, ?_⟩
  · have locked (r : Csr) (hr : r.access = .rwLocked) :
        exec (.regWr r.offset d) s = .next ((s.writeCsr d r).answer .none) :=
      execRegWr_accepted d (by simp [hr]) fun _ => s.unlocked_iff.mpr ⟨snd, rcv⟩
    rw [← lowHalf_eq_ofNat]
    exact ⟨locked .cfgMss rfl, locked .cfgMaxWin rfl, locked .cfgRtoTicks rfl, locked .cfgMaxRetry rfl,
      locked .cfgIsn rfl, locked .cfgTotalLen rfl, locked .cfgLocalPort rfl, locked .cfgRemotePort rfl⟩
  · have free (r : Csr) (hr : r.access = .rw) :
        exec (.regWr r.offset d) s = .next ((s.writeCsr d r).answer .none) := execRegWr_rw s d hr
    rw [← conditionSeed_eq]
    exact ⟨free .leFlpT rfl, free .leFcpT rfl, free .leRlpT rfl, free .leRcpT rfl, free .lePrngFwd rfl,
      free .lePrngRev rfl⟩

end Sys2Proof.Machine
end

section
/-! The end of a run (60_exceptions.md R125, R126, R131): what is left for an operation to do to the sender after it. -/

namespace Sys2Proof.Machine

/-- A flag is set in the last phase of the sender alone (R39 item 1). -/
theorem State.Coherent.ended {s : State} (c : s.Coherent) (h : s.snd.done = true ∨ s.snd.fail = true) :
    s.snd.st = .closed ∧ s.snd.armed = false ∧ s.snd.done ≠ s.snd.fail := by
  have open_of {k : CfgRegs} (run : s.snd.Running k) : ¬(s.snd.done = true ∨ s.snd.fail = true) := by
    simp [run.notDone, run.notFailed]
  cases c.sender with
  | fresh values => simp [values, Sender.reset] at h
  | ended st one disarmed => exact ⟨st, disarmed, one⟩
  | synSent _ run => exact absurd h (open_of run)
  | established _ run => exact absurd h (open_of run)
  | closing _ run => exact absurd h (open_of run)

section
variable {s : State} (hst : s.snd.st = .closed)
include hst

/-- A closed sender ignores a frame (R84). -/
theorem exec_sRx_closed (f : Bytes) : exec (.sRx f) s = .next { s with response := some ⟨.ok, .frames []⟩ } :=
  (execSRx_closed f hst).trans (State.answerSnd_silent rfl)

/-- Once a run has ended no operation writes the sender's working registers (R126). -/
theorem exec_snd_of_ended (hd : s.snd.armed = false) (he : s.snd.done = true ∨ s.snd.fail = true) {i : Instr}
    {t : State} (h : exec i s = .next t) : t.snd = s.snd := by
  cases i with
  | sRx f =>
    cases (exec_sRx_closed hst f).symm.trans h
    rfl
  | sTick =>
    cases (execSTick_disarmed hd).symm.trans h
    rfl
  | sOpen =>
    cases (execSOpen_refused (.inr he)).symm.trans h
    rfl
  | _ => exact exec_snd_of_not_senderOp h rfl

end

/-- Settles O37: a closed and disarmed sender ignores frames and ticks, its flags refuse `S.OPEN`, and so its registers
stand. -/
theorem endedRunStaysInactive : Obligations.EndedRunStaysInactive := by
  intro s c he
  obtain ⟨hst, hd, one⟩ := c.ended he
  have ended : s.runEnded = true := by simp [State.runEnded, hst, one]
  refine ⟨ended, exec_sRx_closed hst, ?_, execSOpen_refused (.inr he), fun i t h => ?_⟩
  · exact (execSTick_disarmed hd).trans (State.answerSnd_silent rfl)
  · have snd := exec_snd_of_ended hst hd he h
    exact ⟨by rw [← ended, State.runEnded, snd, State.runEnded], by rw [snd], by rw [snd]⟩

end Sys2Proof.Machine
end

section
/-! The outcomes (60_exceptions.md R120, R121): how an operation can end, and the answers to frames and ticks. -/

namespace Sys2Proof.Machine

/-! ### The end of an operation (R120) -/

/-- The two ways in which the operation `i` ends: with `OK` and results, or with an outcome of its rows of R120 and
nothing else changed. -/
inductive Ending (i : Instr) (s : State) : State → Prop
  | ok (u : State) (r : Results) : Ending i s (u.answer r)
  | raised (o : OutcomeCode) (row : raisedBy i o) : Ending i s { s with response := some ⟨o, .none⟩ }

theorem Ending.of_answer {i : Instr} {s t u : State} {r : Results}
    (h : (.next (u.answer r) : Host.Outcome State Fault Refusal) = .next t) : Ending i s t := by
  cases h
  exact .ok u r

theorem Ending.of_raise {i : Instr} {s t : State} {o : OutcomeCode} (h : s.raise o = .next t) (row : raisedBy i o) :
    Ending i s t := by
  cases h
  exact .raised o row

/-- The first test of `S.OPEN` (R83). -/
theorem Sender.started_or_idle (x : Sender) :
    (x.st ≠ .closed ∨ x.done = true ∨ x.fail = true) ∨ (x.st = .closed ∧ x.done = false ∧ x.fail = false) := by
  rw [← Bool.not_eq_true, ← Bool.not_eq_true]
  tauto

theorem execSOpen_ending {s t : State} (h : execSOpen s = .next t) : Ending .sOpen s t := by
  rcases s.snd.started_or_idle with hrun | ⟨hst, hdone, hfail⟩
  · exact .of_raise ((execSOpen_refused hrun).symm.trans h) (.inl rfl)
  · by_cases hcfg : s.cfg.runnable
    · exact .of_answer ((execSOpen_accepted hst hdone hfail hcfg).symm.trans h)
    · exact .of_raise ((execSOpen_refusedConfig hst hdone hfail hcfg).symm.trans h) rfl

theorem execRegWr_ending {s t : State} {addr : Byte} {d : Word} (h : execRegWr addr d s = .next t) :
    Ending (.regWr addr d) s t := by
  have operand : raisedBy (.regWr addr d) .refusedOperand := by simp [raisedBy]
  cases ha : csrAt addr with
  | none => exact .of_raise ((execRegWr_refused d ha).symm.trans h) operand
  | some r =>
    obtain rfl := csrAt_eq_some.mp ha
    cases hr : r.access with
    | ro => exact .of_raise ((execRegWr_ro s d hr).symm.trans h) operand
    | rw => exact .of_answer ((execRegWr_rw s d hr).symm.trans h)
    | rwLocked =>
      rw [execRegWr_rwLocked s d hr] at h
      split at h
      · exact .of_answer h
      · exact .of_raise h ⟨_, _, rfl⟩

/-- Every operation that answers ends in one of the two ways. -/
theorem exec_ending {i : Instr} {s t : State} (h : exec i s = .next t) : Ending i s t := by
  cases i with
  | crcGen data => exact .of_answer h
  | segEnc flags seq ack payload =>
    simp only [exec, execSegEnc] at h
    split at h
    · exact .of_raise h (by simp [raisedBy])
    · exact .of_answer h
  | segDec f =>
    cases hd : dec f with
    | none => exact .of_raise ((execSegDec_none hd s).symm.trans h) ⟨f, rfl⟩
    | some g => exact .of_answer ((execSegDec_some hd s).symm.trans h)
  | leDecide dir =>
    cases hd : dirOf dir with
    | none => exact .of_raise ((exec_leDecide_refused hd s).symm.trans h) (by simp [raisedBy])
    | some d => exact .of_answer ((exec_leDecide hd s).symm.trans h)
  | leSend dir f =>
    cases hd : dirOf dir with
    | none => exact .of_raise ((exec_leSend_refused hd f s).symm.trans h) (by simp [raisedBy])
    | some d => exact .of_answer ((exec_leSend hd f s).symm.trans h)
  | sOpen => exact execSOpen_ending h
  | sRx f =>
    rcases execSRx_eq_next h with ⟨-, r, rfl⟩ | ⟨-, u, r, -, rfl⟩
    · exact .ok s r
    · exact .ok u r
  | sTick =>
    rcases execSTick_eq_next h with ⟨-, r, rfl⟩ | ⟨-, u, r, -, rfl⟩
    · exact .ok s r
    · exact .ok u r
  | rRx f =>
    by_cases hst : s.rcv.st = .closed
    · exact .of_answer ((execRRx_closed f hst).symm.trans h)
    · exact .of_answer ((execRRx_active f hst).symm.trans h)
  | rClose =>
    by_cases hst : s.rcv.st = .closing
    · exact .of_answer ((execRClose_closing hst).symm.trans h)
    · exact .of_raise ((execRClose_refused hst).symm.trans h) (.inr rfl)
  | regRd addr =>
    cases ha : csrAt addr with
    | none => exact .of_raise ((execRegRd_refused s ha).symm.trans h) (by simp [raisedBy])
    | some r =>
      obtain rfl := csrAt_eq_some.mp ha
      exact .of_answer ((execRegRd_offset s r).symm.trans h)
  | regWr addr d => exact execRegWr_ending h

/-- Settles O49: an operation that ends otherwise than with `OK` was raised, and a raise writes the response alone. -/
theorem nonOkOutcomesChangeNothing : Obligations.NonOkOutcomesChangeNothing := by
  intro i s t h
  cases exec_ending h with
  | ok u r => exact ⟨_, rfl, fun hne => absurd rfl hne⟩
  | raised o row => exact ⟨_, rfl, fun _ => ⟨rfl, rfl, row⟩⟩

/-! ### Frames and ticks (R121) -/

/-- `S.RX` ends as the operations of the sender's transmit port do. -/
theorem execSRx_eq_answerSnd (f : Bytes) (s : State) : ∃ r, execSRx f s = s.answerSnd r := by
  by_cases hst : s.snd.st = .closed
  · exact ⟨_, execSRx_closed f hst⟩
  · exact ⟨_, execSRx_active f hst⟩

theorem execSTick_eq_answerSnd (s : State) : ∃ r, execSTick s = s.answerSnd r := by
  cases ha : s.snd.armed with
  | false => exact ⟨_, execSTick_disarmed ha⟩
  | true => exact ⟨_, execSTick_armed ha⟩

theorem execRRx_eq_answerRcv (f : Bytes) (s : State) : ∃ u, execRRx f s = s.answerRcv u := by
  by_cases hst : s.rcv.st = .closed
  · exact ⟨_, execRRx_closed f hst⟩
  · exact ⟨_, execRRx_active f hst⟩

/-- The frames of the answer are those that left on the sender's port during the operation (R56, R75). -/
theorem State.answerSnd_frames {s t : State} {r : Except Fault State} (h : s.answerSnd r = .next t)
    (port : s.sndOut <+: t.sndOut) : ∃ fs, t.response = some ⟨.ok, .frames fs⟩ ∧ t.sndOut = s.sndOut ++ fs := by
  obtain ⟨u, -, rfl⟩ := State.answerSnd_eq_next h
  exact ⟨_, rfl, (List.prefix_iff_eq_append.mp port).symm⟩

theorem State.answerRcv_frames {s t u : State} (h : s.answerRcv u = .next t) (port : s.rcvOut <+: t.rcvOut) :
    ∃ fs, t.response = some ⟨.ok, .frames fs⟩ ∧ t.rcvOut = s.rcvOut ++ fs := by
  cases h
  exact ⟨_, rfl, (List.prefix_iff_eq_append.mp port).symm⟩

/-- Settles O50: from a coherent state the three operations answer, and a port only grows. -/
theorem anyFrameIsAnsweredOk : Obligations.AnyFrameIsAnsweredOk := by
  intro s f c
  refine ⟨?_, ?_, ?_⟩
  · obtain ⟨t, ht⟩ := exec_answers c (.sRx f)
    obtain ⟨r, hr⟩ := execSRx_eq_answerSnd f s
    obtain ⟨fs, frames⟩ := State.answerSnd_frames (hr.symm.trans ht) (exec_sender_frame rfl ht).port
    exact ⟨t, fs, ht, frames⟩
  · obtain ⟨t, ht⟩ := exec_answers c .sTick
    obtain ⟨r, hr⟩ := execSTick_eq_answerSnd s
    obtain ⟨fs, frames⟩ := State.answerSnd_frames (hr.symm.trans ht) (exec_sender_frame rfl ht).port
    exact ⟨t, fs, ht, frames⟩
  · obtain ⟨t, ht, frame⟩ := execRRx_frame s f
    obtain ⟨u, hu⟩ := execRRx_eq_answerRcv f s
    obtain ⟨fs, frames⟩ := State.answerRcv_frames (hu.symm.trans ht) frame.port
    exact ⟨t, fs, ht, frames⟩

end Sys2Proof.Machine
end

section
/-! The operation arbiter (60_exceptions.md R124): which of the inputs presented together a step takes. -/

namespace Sys2Proof.Machine

/-! ### What an eligible input waits for -/

/-- A frame for the receiver is no frame for the sender and no tick. -/
theorem Input.not_sender_of_isRRx {x : Input} (h : x.isRRx = true) : x.isSTick = false ∧ x.isSRx = false := by
  unfold Input.isRRx at h
  unfold Input.isSTick Input.isSRx
  split at h <;> simp_all

section
variable {now : List Input} {k : Nat} {x : Input} (hk : eligible now k = true) (hx : now[k]? = some x)
include hk hx

/-- R124 item 1. -/
theorem no_sRx_of_eligible_tick (h : x.isSTick = true) : ∀ y ∈ now, y.isSRx = false := by
  simpa [eligible, hx, h] using hk

/-- R124 item 3, for the sender. -/
theorem no_earlier_sRx_of_eligible (h : x.isSRx = true) : ∀ y ∈ now.take k, y.isSRx = false := by
  rw [eligible, hx] at hk
  simpa only [Input.not_tick_of_isSRx h, h, Bool.false_eq_true, if_false, if_true, Bool.not_eq_true',
    List.any_eq_false, Bool.not_eq_true] using hk

/-- R124 item 3, for the receiver. -/
theorem no_earlier_rRx_of_eligible (h : x.isRRx = true) : ∀ y ∈ now.take k, y.isRRx = false := by
  obtain ⟨noTick, noSRx⟩ := Input.not_sender_of_isRRx h
  rw [eligible, hx] at hk
  simpa only [noTick, noSRx, h, Bool.false_eq_true, if_false, if_true, Bool.not_eq_true', List.any_eq_false,
    Bool.not_eq_true] using hk

end

/-- Settles O53: the input picked is an eligible one, and the others stay presented. -/
theorem arbiterTakesAnAllowedInput : Obligations.ArbiterTakesAnAllowedInput := by
  intro s now rest hin hne
  obtain ⟨hlt, hk⟩ := mem_eligibles.mp (pick_mem_eligibles hne s.arbiterTurn)
  have hx := List.getElem?_eq_getElem hlt
  refine ⟨_, _, (pick now s.arbiterTurn).2, hx, ?_, no_sRx_of_eligible_tick hk hx, no_earlier_sRx_of_eligible hk hx,
    no_earlier_rRx_of_eligible hk hx⟩
  simp only [step, arbiterStep, hin, hx, State.take, remaining, List.isEmpty_iff]

/-! ### A frame and a tick together -/

theorem Input.instr?_encode {i : Instr} (h : i.wellFormed = true) : (Input.record (encode i)).instr? = some i := by
  simp [Input.instr?, decodeOfEncodeIsTheOperation i h, Except.toOption]

/-- A well-formed operation's record performs the operation. -/
theorem perform_encode {i : Instr} (h : i.wellFormed = true) (s : State) :
    perform (.record (encode i)) s = exec i s := by
  simp only [perform, decodeOfEncodeIsTheOperation i h]

/-- With a single eligible input the arbiter makes no choice. -/
theorem step_of_eligibles {s : State} {now : List Input} {rest : List (List Input)} {k : Nat} {x : Input}
    (hin : s.inputs = now :: rest) (he : eligibles now = [k]) (hx : now[k]? = some x) :
    step s = perform x { s with inputs := remaining now k rest } := by
  have hp : pick now s.arbiterTurn = (k, s.arbiterTurn) := by rw [pick, he]
  simp only [step, arbiterStep, hin, hp, hx, State.take]

theorem eligibles_tick_frame {x y : Input} (hx : x.isSTick = true) (hy : y.isSRx = true) :
    eligibles [x, y] = [1] := by
  have hx' : x.isSRx = false := by
    by_contra h
    simp [Input.not_tick_of_isSRx (by simpa using h)] at hx
  simp [eligibles, List.range_succ, eligible, hx, hx', hy, Input.not_tick_of_isSRx hy]

theorem eligibles_frame_tick {x y : Input} (hx : x.isSTick = true) (hy : y.isSRx = true) :
    eligibles [y, x] = [0] := by
  simp [eligibles, List.range_succ, eligible, hx, hy, Input.not_tick_of_isSRx hy]

/-- Settles O54: in either order the frame is the one input that may be performed. -/
theorem frameIsPerformedBeforeTick : Obligations.FrameIsPerformedBeforeTick := by
  intro s f rest hf hin
  have wf : (Instr.sRx f).wellFormed = true := decide_eq_true hf
  have tick : (Input.record (encode .sTick)).isSTick = true := by
    simp [Input.isSTick, Input.instr?_encode (i := .sTick) rfl]
  have frame : (Input.record (encode (.sRx f))).isSRx = true := by simp [Input.isSRx, Input.instr?_encode wf]
  rcases hin with hin | hin
  · exact (step_of_eligibles hin (eligibles_tick_frame tick frame) rfl).trans (perform_encode wf _)
  · exact (step_of_eligibles hin (eligibles_frame_tick tick frame) rfl).trans (perform_encode wf _)

end Sys2Proof.Machine
end

section
/-! The parts of the state (60_exceptions.md R124, R129): what each unit's operations change at most, and that the two
engines do not see each other. -/

namespace Sys2Proof.Machine

/-! ### What the units change (R8, R61, R129) -/

/-- What the sender engine never writes, as one equation. -/
theorem SenderFrame.eq {s t : State} (h : SenderFrame s t) :
    t = { s with
      snd := t.snd, sndCnt := t.sndCnt, fwd := { s.fwd with prng := t.fwd.prng }, sndOut := t.sndOut,
      response := t.response } := by
  dsimp only
  rw [← h.cfg, ← h.rev, ← h.rcv, ← h.rcvCnt, ← h.src, ← h.sink, ← h.rcvOut, ← h.inputs, ← h.arbiterTurn, ← h.lossT,
    ← h.corrT]

/-- What the receiver engine never writes, as one equation. -/
theorem ReceiverFrame.eq {s t : State} (h : ReceiverFrame s t) :
    t = { s with
      rcv := t.rcv, rcvCnt := t.rcvCnt, rev := { s.rev with prng := t.rev.prng }, rcvOut := t.rcvOut,
      sink := t.sink, response := t.response } := by
  dsimp only
  rw [← h.cfg, ← h.fwd, ← h.snd, ← h.sndCnt, ← h.src, ← h.sndOut, ← h.inputs, ← h.arbiterTurn, ← h.lossT, ← h.corrT]

/-- The units without an engine write the configuration and the injector at most. -/
theorem UnitEffect.eq {i : Instr} {s t : State} (h : UnitEffect i s t) :
    t = { s with cfg := t.cfg, fwd := t.fwd, rev := t.rev } := by
  cases h with
  | nothing => rfl
  | decided d => cases d <;> rfl
  | sent d f => cases d <;> rfl
  | written r data => cases r <;> rfl

/-- A receiver operation that answers writes nothing outside the receiver (R8, R129). -/
theorem exec_receiverFrame {i : Instr} {s t : State} (hi : isReceiverOp i = true) (h : exec i s = .next t) :
    ReceiverFrame s t := by
  obtain ⟨u, hu, frame⟩ := exec_receiver_frame hi s
  cases hu.symm.trans h
  exact frame

/-- Settles O51: each unit's frame, for the operations of that unit. -/
theorem unitsChangeOnlyTheirOwnState : Obligations.UnitsChangeOnlyTheirOwnState := by
  intro i s t h
  refine ⟨fun hs => (exec_sender_frame hs h).eq, fun hr => (exec_receiverFrame hr h).eq, fun hs hr => ?_⟩
  obtain ⟨u, r, effect, hu⟩ := exec_unit_effect hs hr s
  cases hu.symm.trans h
  exact congrArg (fun v : State => { v with response := some r }) effect.eq

end Sys2Proof.Machine
end

section
/-! SUPPORT. The sender does not see the receiver (60_exceptions.md R124 item 2, R129): each of its rules does the same
beside any receiver. -/

namespace Sys2Proof.Machine

/-- The state `s` with the receiver's part of `u` in place of its own, and the response with it. -/
def State.withReceiver (u s : State) : State :=
  { s with rev := u.rev, rcv := u.rcv, rcvCnt := u.rcvCnt, sink := u.sink, rcvOut := u.rcvOut, response := u.response }

variable (u s : State)

theorem State.withReceiver_snd : (u.withReceiver s).snd = s.snd := rfl

theorem State.withReceiver_cfg : (u.withReceiver s).cfg = s.cfg := rfl

/-! ### Sending -/

theorem State.withReceiver_readSource (seq n : Nat) : (u.withReceiver s).readSource seq n = s.readSource seq n := rfl

theorem State.withReceiver_sendData (seq n : Nat) :
    (u.withReceiver s).sendData seq n = (s.sendData seq n).map u.withReceiver := by
  simp only [State.sendData, State.withReceiver_readSource]
  cases s.readSource seq n <;> rfl

/-! ### The loop of R85 and the FIN of R86 -/

theorem State.withReceiver_advanceNext (n : Nat) (wasEmpty : Bool) :
    (u.withReceiver s).advanceNext n wasEmpty = u.withReceiver (s.advanceNext n wasEmpty) := by
  cases wasEmpty <;> rfl

theorem State.withReceiver_fillOne : (u.withReceiver s).fillOne = s.fillOne.map u.withReceiver := by
  have size : (u.withReceiver s).fillSize = s.fillSize := rfl
  simp only [State.fillOne, State.withReceiver_sendData, size, State.withReceiver_snd]
  cases s.sendData s.snd.next.toNat s.fillSize with
  | error f => rfl
  | ok t => exact congrArg Except.ok (u.withReceiver_advanceNext t _ _)

theorem State.withReceiver_fillLoop (k : Nat) :
    State.fillLoop k (u.withReceiver s) = (State.fillLoop k s).map u.withReceiver := by
  induction k generalizing s with
  | zero => rfl
  | succ k ih =>
    have may : (u.withReceiver s).mayFill = s.mayFill := rfl
    simp only [State.fillLoop, State.withReceiver_fillOne, may]
    cases s.mayFill with
    | false => rfl
    | true =>
      cases s.fillOne with
      | error f => rfl
      | ok t => exact ih t

theorem State.withReceiver_finishCheck : (u.withReceiver s).finishCheck = u.withReceiver s.finishCheck := by
  rw [State.finishCheck, State.finishCheck, apply_ite u.withReceiver]
  rfl

theorem State.withReceiver_fillAndFinish :
    (u.withReceiver s).fillAndFinish = s.fillAndFinish.map u.withReceiver := by
  have fill : (u.withReceiver s).fill = s.fill.map u.withReceiver := u.withReceiver_fillLoop s _
  simp only [State.fillAndFinish, fill]
  cases s.fill with
  | error f => rfl
  | ok t => exact congrArg Except.ok (u.withReceiver_finishCheck t)

/-! ### `S.RX` -/

theorem State.withReceiver_rxSynSent (k : SndKind) (g : Segment) :
    (u.withReceiver s).rxSynSent k g = (s.rxSynSent k g).map u.withReceiver := by
  rw [State.rxSynSent, State.rxSynSent, apply_ite (Except.map u.withReceiver), ← State.withReceiver_fillAndFinish]
  rfl

theorem State.withReceiver_ackProgress (a : Word) :
    (u.withReceiver s).ackProgress a = (s.ackProgress a).map u.withReceiver := by
  rw [State.ackProgress, State.ackProgress, apply_ite (Except.map u.withReceiver), ← State.withReceiver_fillAndFinish,
    ← State.withReceiver_fillAndFinish]
  rfl

theorem State.withReceiver_ackDuplicate :
    (u.withReceiver s).ackDuplicate = s.ackDuplicate.map u.withReceiver := by
  have count : (u.withReceiver s).countS .dupAck = u.withReceiver (s.countS .dupAck) := rfl
  rw [State.ackDuplicate, State.ackDuplicate, apply_ite (Except.map u.withReceiver), count,
    State.withReceiver_sendData, State.withReceiver_snd, State.withReceiver_cfg]
  congr 1
  · cases (s.countS .dupAck).sendData _ _ <;> rfl
  · cases fit 2 (s.snd.dupCnt.toNat + 1) <;> rfl

theorem State.withReceiver_rxEstablished (k : SndKind) (g : Segment) :
    (u.withReceiver s).rxEstablished k g = (s.rxEstablished k g).map u.withReceiver := by
  rw [State.rxEstablished, State.rxEstablished, apply_ite (Except.map u.withReceiver),
    apply_ite (Except.map u.withReceiver), ← State.withReceiver_ackProgress, ← State.withReceiver_ackDuplicate]
  rfl

theorem State.withReceiver_rxSndClosing (k : SndKind) (g : Segment) :
    (u.withReceiver s).rxSndClosing k g = u.withReceiver (s.rxSndClosing k g) := by
  rw [State.rxSndClosing, State.rxSndClosing, apply_ite u.withReceiver]
  rfl

theorem State.withReceiver_rxSndState (k : SndKind) (g : Segment) :
    (u.withReceiver s).rxSndState k g = (s.rxSndState k g).map u.withReceiver := by
  simp only [State.rxSndState, State.withReceiver_snd]
  cases s.snd.st with
  | closed => rfl
  | synSent => exact u.withReceiver_rxSynSent s k g
  | established => exact u.withReceiver_rxEstablished s k g
  | closing => exact congrArg Except.ok (u.withReceiver_rxSndClosing s k g)

theorem State.withReceiver_rxSndFrame (f : Bytes) :
    (u.withReceiver s).rxSndFrame f = (s.rxSndFrame f).map u.withReceiver := by
  simp only [State.rxSndFrame]
  cases dec f with
  | none => rfl
  | some g =>
    cases hk : classifyS g.flags with
    | none => simp only [hk]; rfl
    | some k =>
      simp only [hk]
      rw [apply_ite (Except.map u.withReceiver), ← State.withReceiver_rxSndState]
      rfl

/-! ### `S.TICK` -/

theorem State.withReceiver_resendLoop (k p : Nat) :
    State.resendLoop k p (u.withReceiver s) = (State.resendLoop k p s).map u.withReceiver := by
  induction k generalizing p s with
  | zero => rfl
  | succ k ih =>
    rw [State.resendLoop, State.resendLoop, apply_ite (Except.map u.withReceiver), State.withReceiver_sendData,
      State.withReceiver_snd, State.withReceiver_cfg]
    congr 1
    cases s.sendData _ _ with
    | error f => rfl
    | ok t => exact ih (t.countS .retxTo) _

theorem State.withReceiver_resend : (u.withReceiver s).resend = s.resend.map u.withReceiver := by
  simp only [State.resend, State.withReceiver_snd]
  cases s.snd.st with
  | established => exact u.withReceiver_resendLoop s _ _
  | _ => rfl

theorem State.withReceiver_expire : (u.withReceiver s).expire = s.expire.map u.withReceiver := by
  rw [State.expire, State.expire, apply_ite (Except.map u.withReceiver), State.withReceiver_snd]
  congr 1
  cases fit 16 (s.snd.retry.toNat + 1) with
  | error f => rfl
  | ok r =>
    have resend := u.withReceiver_resend (s.setSnd { s.snd with retry := r })
    have set : (u.withReceiver s).setSnd { s.snd with retry := r }
      = u.withReceiver (s.setSnd { s.snd with retry := r }) := rfl
    simp only [set, resend]
    cases (s.setSnd { s.snd with retry := r }).resend <;> rfl

theorem State.withReceiver_tick : (u.withReceiver s).tick = s.tick.map u.withReceiver := by
  rw [State.tick, State.tick, apply_ite (Except.map u.withReceiver), apply_ite (Except.map u.withReceiver),
    ← State.withReceiver_expire]
  rfl

/-! ### The operations -/

theorem State.withReceiver_answerSnd {s t : State} {r : Except Fault State} (h : s.answerSnd r = .next t) :
    (u.withReceiver s).answerSnd (r.map u.withReceiver)
      = .next { u.withReceiver t with response := t.response } := by
  obtain ⟨v, rfl, rfl⟩ := State.answerSnd_eq_next h
  rfl

/-- A sender operation does beside the receiver of `u` what it does in `s`, and gives the same response. -/
theorem exec_withReceiver {i : Instr} (hi : isSenderOp i = true) {s t : State} (h : exec i s = .next t) :
    exec i (u.withReceiver s) = .next { u.withReceiver t with response := t.response } := by
  cases i with
  | sOpen =>
    rcases s.snd.started_or_idle with hrun | ⟨hst, hdone, hfail⟩
    · cases (execSOpen_refused hrun).symm.trans h
      exact execSOpen_refused (s := u.withReceiver s) hrun
    · by_cases hcfg : s.cfg.runnable
      · have answer := u.withReceiver_answerSnd ((execSOpen_accepted hst hdone hfail hcfg).symm.trans h)
        exact (execSOpen_accepted (s := u.withReceiver s) hst hdone hfail hcfg).trans answer
      · cases (execSOpen_refusedConfig hst hdone hfail hcfg).symm.trans h
        exact execSOpen_refusedConfig (s := u.withReceiver s) hst hdone hfail hcfg
  | sRx f =>
    by_cases hst : s.snd.st = .closed
    · have answer := u.withReceiver_answerSnd ((execSRx_closed f hst).symm.trans h)
      exact (execSRx_closed (s := u.withReceiver s) f hst).trans answer
    · have answer := u.withReceiver_answerSnd ((execSRx_active f hst).symm.trans h)
      rw [← State.withReceiver_rxSndFrame] at answer
      exact (execSRx_active (s := u.withReceiver s) f hst).trans answer
  | sTick =>
    cases ha : s.snd.armed with
    | false =>
      have answer := u.withReceiver_answerSnd ((execSTick_disarmed ha).symm.trans h)
      exact (execSTick_disarmed (s := u.withReceiver s) ha).trans answer
    | true =>
      have answer := u.withReceiver_answerSnd ((execSTick_armed ha).symm.trans h)
      rw [← State.withReceiver_tick] at answer
      exact (execSTick_armed (s := u.withReceiver s) ha).trans answer
  | _ => cases hi

end Sys2Proof.Machine
end

section
/-! SUPPORT. The receiver does not see the sender (60_exceptions.md R124 item 2, R129): each of its rules does the same
beside any sender. -/

namespace Sys2Proof.Machine

/-- The state `s` with the sender's part of `t` in place of its own, and the response with it. -/
def State.withSender (t s : State) : State :=
  { s with fwd := t.fwd, snd := t.snd, sndCnt := t.sndCnt, sndOut := t.sndOut, response := t.response }

variable (t s : State)

theorem State.withSender_rxListening (k : RcvKind) (g : Segment) :
    (t.withSender s).rxListening k g = t.withSender (s.rxListening k g) := by
  simp only [State.rxListening, apply_ite t.withSender]
  rfl

theorem State.withSender_rxData (g : Segment) : (t.withSender s).rxData g = t.withSender (s.rxData g) := by
  simp only [State.rxData, apply_ite t.withSender]
  rfl

theorem State.withSender_rxSynAgain (g : Segment) :
    (t.withSender s).rxSynAgain g = t.withSender (s.rxSynAgain g) := by
  simp only [State.rxSynAgain, apply_ite t.withSender]
  rfl

theorem State.withSender_rxFin (g : Segment) : (t.withSender s).rxFin g = t.withSender (s.rxFin g) := by
  simp only [State.rxFin, apply_ite t.withSender]
  rfl

theorem State.withSender_rxRcvClosing (k : RcvKind) (g : Segment) :
    (t.withSender s).rxRcvClosing k g = t.withSender (s.rxRcvClosing k g) := by
  simp only [State.rxRcvClosing, apply_ite t.withSender]
  rfl

theorem State.withSender_rxRcvState (k : RcvKind) (g : Segment) :
    (t.withSender s).rxRcvState k g = t.withSender (s.rxRcvState k g) := by
  have rcv : (t.withSender s).rcv = s.rcv := rfl
  simp only [State.rxRcvState, rcv]
  cases s.rcv.st with
  | listening => exact t.withSender_rxListening s k g
  | established =>
    cases k with
    | syn => exact t.withSender_rxSynAgain s g
    | fin => exact t.withSender_rxFin s g
    | data => exact t.withSender_rxData s g
  | closing => exact t.withSender_rxRcvClosing s k g
  | closed => rfl

theorem State.withSender_rxRcvFrame (f : Bytes) :
    (t.withSender s).rxRcvFrame f = t.withSender (s.rxRcvFrame f) := by
  simp only [State.rxRcvFrame]
  cases dec f with
  | none => rfl
  | some g =>
    cases hk : classifyR g.flags with
    | none => simp only [hk]; rfl
    | some k =>
      simp only [hk]
      rw [apply_ite t.withSender, ← State.withSender_rxRcvState]
      rfl

/-- A receiver operation does beside the sender of `t` what it does in `s`, and gives the same response. -/
theorem exec_withSender {j : Instr} (hj : isReceiverOp j = true) {s u : State} (h : exec j s = .next u) :
    exec j (t.withSender s) = .next { t.withSender u with response := u.response } := by
  cases j with
  | rRx f =>
    by_cases hst : s.rcv.st = .closed
    · cases (execRRx_closed f hst).symm.trans h
      exact execRRx_closed (s := t.withSender s) f hst
    · cases (execRRx_active f hst).symm.trans h
      have frame := t.withSender_rxRcvFrame (s.countR .segRcvd) f
      refine (execRRx_active (s := t.withSender s) f hst).trans ?_
      exact congrArg (t.withSender s).answerRcv frame
  | rClose =>
    by_cases hst : s.rcv.st = .closing
    · cases (execRClose_closing hst).symm.trans h
      exact execRClose_closing (s := t.withSender s) hst
    · cases (execRClose_refused hst).symm.trans h
      exact execRClose_refused (s := t.withSender s) hst
  | _ => cases hj

end Sys2Proof.Machine
end

section
/-! The two engines commute (60_exceptions.md R124 item 2). -/

namespace Sys2Proof.Machine

/-- A sender operation leaves the state with another sender. -/
theorem SenderFrame.eq_withSender {s t : State} (h : SenderFrame s t) : t = t.withSender s := by
  rw [State.withSender, ← h.cfg, ← h.rev, ← h.rcv, ← h.rcvCnt, ← h.src, ← h.sink, ← h.rcvOut, ← h.inputs,
    ← h.arbiterTurn]

/-- A receiver operation leaves the state with another receiver. -/
theorem ReceiverFrame.eq_withReceiver {s u : State} (h : ReceiverFrame s u) : u = u.withReceiver s := by
  rw [State.withReceiver, ← h.cfg, ← h.fwd, ← h.snd, ← h.sndCnt, ← h.src, ← h.sndOut, ← h.inputs, ← h.arbiterTurn]

/-- Settles O52: each operation is performed beside the other's engine as in `s`, and both orders end with the sender of
the one and the receiver of the other. -/
theorem enginesCommute : Obligations.EnginesCommute := by
  intro s t u i j hi hj ht hu
  have senderFrame := exec_sender_frame hi ht
  have receiverFrame := exec_receiverFrame hj hu
  have hv := exec_withSender t hj hu
  have hw := exec_withReceiver u hi ht
  rw [← senderFrame.eq_withSender] at hv
  rw [← receiverFrame.eq_withReceiver] at hw
  refine ⟨_, _, hv, hw, rfl, rfl, ?_⟩
  simp only [SameButResponse, State.withSender, State.withReceiver, senderFrame.cfg, senderFrame.src,
    senderFrame.inputs, senderFrame.arbiterTurn, receiverFrame.cfg, receiverFrame.src, receiverFrame.inputs,
    receiverFrame.arbiterTurn]

end Sys2Proof.Machine
end

section
/-! The reset input (70_reset_and_hazards.md R150). -/

namespace Sys2Proof.Machine

/-- The reset input is no operation: it always answers, with the state of R150. -/
theorem perform_reset (s : State) : perform .reset s = .next s.applyReset := rfl

/-- `State.applyReset` field by field, in the state from which the reset input has been taken. -/
theorem State.applyReset_with_inputs (s : State) (rest : List (List Input)) :
    ({ s with inputs := rest } : State).applyReset
      = { State.reset with
          src := s.src, sink := s.sink, sndOut := s.sndOut, rcvOut := s.rcvOut, inputs := rest,
          arbiterTurn := s.arbiterTurn } := rfl

/-- Settles O24: alone at its instant the reset input is the one performed, with no choice of the arbiter, and what it
does is `State.applyReset`. -/
theorem resetInputRestoresTheRegisters : Obligations.ResetInputRestoresTheRegisters := by
  intro s rest hin
  calc step s
      = perform .reset { s with inputs := rest } := arbiterStep_single s .reset rest hin
    _ = .next ({ s with inputs := rest } : State).applyReset := perform_reset _
    _ = _ := congrArg _ (s.applyReset_with_inputs rest)

end Sys2Proof.Machine
end
